-- ==== Sys2Proof/Word.lean ====
section
/-! DEFINITION. The plain types every other file speaks of: machine words, bit strings and the register numbers
of STG-CORE (00_scope.md R11, R12; 10_state.md R20, R22, R24, R25, R26). -/

namespace Sys2Proof

/-- One byte. -/
abbrev Byte := BitVec 8

/-- One 32-bit word: a command word, a host register, a scalar (R12, R24). -/
abbrev Word := BitVec 32

/-- A 128-bit cipher block, bit 0 of the bit string being its most significant bit (R77, R172). -/
abbrev Block := BitVec 128

/-- A bit string (R11): a finite sequence of bits, bit 0 first. It is the value of a BitArray (R20). -/
abbrev Bits := List Bool

/-- Number of a buffer register `B0`..`B15` (R22). -/
abbrev BufIx := Fin 16

/-- Number of a scalar register `S0`..`S7` (R24). -/
abbrev ScalIx := Fin 8

/-- Number of an AES key-context slot `K0`..`K3` (R25). -/
abbrev KeyIx := Fin 4

/-- Number of a hash-context slot `H0`..`H3` (R26). -/
abbrev HashIx := Fin 4

/-- An entropy source tag, `0 .. RNG_NSRC-1` (R325). -/
abbrev TagIx := Fin 16

end Sys2Proof
end

