-- ==== Sys2Proof/Syntax.lean ====
section
/-! DEFINITION. The commands of STG-CORE as syntax: one constructor per row of `spec/opcode_table.json`
(30_encoding.md R105), with the operands in the order of the word's fields `a b c d e f` (R101). -/

namespace Sys2Proof

/-- The hash selector `alg` of the commands that take one: 0 SHA-256, 1 SHA-512 (R200). -/
inductive HashAlg where
  | sha256
  | sha512
deriving DecidableEq, Repr

/-- A command (R16, R105). Register numbers carry their range in their type (R103); the tag-length field `tl` (in
units of 16 bits, R102) and the paranoia `level` are plain numbers, which `wellFormed` bounds by their 4-bit field. -/
inductive Instr where
  | nop
  | zeroize
  | baLen (a : ScalIx) (b : BufIx)
  | baSlice (a b : BufIx) (c d : ScalIx)
  | baExtract (a : ScalIx) (b : BufIx) (c d : ScalIx)
  | baConcat (a b c : BufIx)
  | baClamp (a b : BufIx) (c : ScalIx)
  | baEqual (a : ScalIx) (b c : BufIx)
  | baPartial (a : BufIx) (b c : ScalIx) (high : Bool)
  | baGetPartial (a : ScalIx) (b : BufIx)
  | hexDec (a b : BufIx)
  | hexEnc (a b : BufIx)
  | b64Dec (a b : BufIx) (url : Bool)
  | b64Enc (a b : BufIx) (url nopad : Bool)
  | aesKey (a : KeyIx) (b : BufIx)
  | aesEnc (a b : BufIx) (e : KeyIx)
  | aesDec (a b : BufIx) (e : KeyIx)
  | hashReset (a : HashIx) (alg : HashAlg)
  | hashUpdate (a : HashIx) (b : BufIx)
  | hashFinal (a : BufIx) (e : HashIx)
  | hashDigest (a b : BufIx) (alg : HashAlg)
  | hmac (a b c : BufIx) (alg : HashAlg)
  | pbkdf2 (a b c : BufIx) (d e : ScalIx) (alg : HashAlg)
  | pbkdf2Init (b c : BufIx) (d e : ScalIx) (alg : HashAlg)
  | pbkdf2Step (a b : ScalIx)
  | pbkdf2Read (a : BufIx)
  | cbcEnc (a b c d : BufIx) (e : KeyIx)
  | cbcDec (a b c d : BufIx) (e : KeyIx)
  | ccmEnc (a b c d : BufIx) (e : KeyIx) (tl : Nat)
  | ccmDec (a b c d : BufIx) (e : KeyIx) (tl : Nat)
  | ocb2Enc (a b c d : BufIx) (e : KeyIx) (tl : Nat)
  | ocb2Dec (a b c d : BufIx) (e : KeyIx) (tl : Nat)
  | gcmEnc (a b c d : BufIx) (e : KeyIx) (tl : Nat)
  | gcmDec (a b c d : BufIx) (e : KeyIx) (tl : Nat)
  | rngAddentN (b c : ScalIx) (tag : TagIx) (defest : Bool)
  | rngAddentW (b : BufIx) (c : ScalIx) (tag : TagIx) (defest : Bool)
  | rngAddentS (b : BufIx) (c : ScalIx) (tag : TagIx) (defest : Bool)
  | rngIsReady (a : ScalIx) (level : Nat)
  | rngWords (a : BufIx) (c : ScalIx) (level : Nat)
  | envDec (a b : BufIx) (rawkey : Bool)
  | envEnc (b c : BufIx) (rawkey : Bool)
  | envParse (b : BufIx)
  | envSer (a : BufIx)
  | md5 (a b : BufIx)
  | crc32 (a : ScalIx) (b : BufIx)
  | rc2Key (b : BufIx) (c : ScalIx)
  | rc2Enc (a b : BufIx)
  | rc2Dec (a b : BufIx)
  | legacyDec (a b c : BufIx)
  | legacyEnc (a b c : BufIx)
  | enc0Dec (a b c : BufIx)
  | dispatchDec (a b c d : BufIx) (e : ScalIx)
deriving DecidableEq, Repr

end Sys2Proof
end

