-- ==== Sys2Proof/WellFormed.lean ====
section
/-! DEFINITION. Which terms of `Instr` a command word can hold (30_encoding.md R101, R102, R103). -/

namespace Sys2Proof

/-- An immediate of field `f` is an unsigned 4-bit number (R102). -/
def fitsNibble (n : Nat) : Bool := decide (n < 16)

/-- The command has an encoding: its immediates fit the 4-bit field `f` (R102). The register numbers cannot be out
of range (their types carry R103), nor can the one-bit and two-bit flags. -/
def wellFormed : Instr → Bool
  | .nop => true
  | .zeroize => true
  | .baLen _ _ => true
  | .baSlice _ _ _ _ => true
  | .baExtract _ _ _ _ => true
  | .baConcat _ _ _ => true
  | .baClamp _ _ _ => true
  | .baEqual _ _ _ => true
  | .baPartial _ _ _ _ => true
  | .baGetPartial _ _ => true
  | .hexDec _ _ => true
  | .hexEnc _ _ => true
  | .b64Dec _ _ _ => true
  | .b64Enc _ _ _ _ => true
  | .aesKey _ _ => true
  | .aesEnc _ _ _ => true
  | .aesDec _ _ _ => true
  | .hashReset _ _ => true
  | .hashUpdate _ _ => true
  | .hashFinal _ _ => true
  | .hashDigest _ _ _ => true
  | .hmac _ _ _ _ => true
  | .pbkdf2 _ _ _ _ _ _ => true
  | .pbkdf2Init _ _ _ _ _ => true
  | .pbkdf2Step _ _ => true
  | .pbkdf2Read _ => true
  | .cbcEnc _ _ _ _ _ => true
  | .cbcDec _ _ _ _ _ => true
  | .ccmEnc _ _ _ _ _ tl => fitsNibble tl
  | .ccmDec _ _ _ _ _ tl => fitsNibble tl
  | .ocb2Enc _ _ _ _ _ tl => fitsNibble tl
  | .ocb2Dec _ _ _ _ _ tl => fitsNibble tl
  | .gcmEnc _ _ _ _ _ tl => fitsNibble tl
  | .gcmDec _ _ _ _ _ tl => fitsNibble tl
  | .rngAddentN _ _ _ _ => true
  | .rngAddentW _ _ _ _ => true
  | .rngAddentS _ _ _ _ => true
  | .rngIsReady _ level => fitsNibble level
  | .rngWords _ _ level => fitsNibble level
  | .envDec _ _ _ => true
  | .envEnc _ _ _ => true
  | .envParse _ => true
  | .envSer _ => true
  | .md5 _ _ => true
  | .crc32 _ _ => true
  | .rc2Key _ _ => true
  | .rc2Enc _ _ => true
  | .rc2Dec _ _ => true
  | .legacyDec _ _ _ => true
  | .legacyEnc _ _ _ => true
  | .enc0Dec _ _ _ => true
  | .dispatchDec _ _ _ _ _ => true

end Sys2Proof
end

