-- ==== Sys2Proof/Decode.lean ====
section
/-! DEFINITION. The command encoding (30_encoding.md R101 to R106, R112): reading a 32-bit command word as a command,
total on every word, and the encoder written from the same table. -/

namespace Sys2Proof

/-- The seven fields of a command word (R101). -/
structure Fields where
  op : Byte
  (a b c d e f : BitVec 4)
deriving DecidableEq, Repr

/-- The fields of a command word, at the bit places of R101. -/
def Fields.ofWord (cw : Word) : Fields :=
  ⟨cw.extractLsb' 24 8, cw.extractLsb' 20 4, cw.extractLsb' 16 4, cw.extractLsb' 12 4, cw.extractLsb' 8 4,
    cw.extractLsb' 4 4, cw.extractLsb' 0 4⟩

/-- The word of seven fields (R101): `op·2^24 + a·2^20 + b·2^16 + c·2^12 + d·2^8 + e·2^4 + f`. -/
def Fields.toWord (x : Fields) : Word :=
  x.op ++ x.a ++ x.b ++ x.c ++ x.d ++ x.e ++ x.f

/-- What a 4-bit field of a command holds (R103, R105): nothing, a buffer number, a scalar number, a context-slot
number, a 4-bit immediate, or one or two flag bits. -/
inductive FieldKind where
  | zero
  | buf
  | scal
  | slot
  | imm4
  | flag1
  | flag2
deriving DecidableEq, Repr

/-- The bits of a field that must be 0 (R106). -/
def FieldKind.mask : FieldKind → BitVec 4
  | .zero => 0xF
  | .buf => 0x0
  | .scal => 0x8
  | .slot => 0xC
  | .imm4 => 0x0
  | .flag1 => 0xE
  | .flag2 => 0xC

/-- The field holds nothing its kind forbids (R103). -/
def FieldKind.admits (k : FieldKind) (x : BitVec 4) : Bool := x &&& k.mask == 0

/-- A buffer number or a source tag, from its field. -/
def bufOf (x : BitVec 4) : Fin 16 := ⟨x.toNat, x.isLt⟩

/-- A scalar number, from the low three bits of its field. -/
def scalOf (x : BitVec 4) : ScalIx := ⟨x.toNat % 8, Nat.mod_lt _ (by decide)⟩

/-- A key-slot or hash-slot number, from the low two bits of its field. -/
def slotOf (x : BitVec 4) : Fin 4 := ⟨x.toNat % 4, Nat.mod_lt _ (by decide)⟩

/-- The hash selector, bit 0 of field `f`: 0 SHA-256, 1 SHA-512 (R200). -/
def algOf (x : BitVec 4) : HashAlg := if x.getLsbD 0 then .sha512 else .sha256

/-- One row of the opcode table of R105: the opcode, what each field holds, and the command the fields make. -/
structure Row where
  op : Byte
  (a b c d e f : FieldKind)
  build : Fields → Instr

/-- The opcode table (R105), in the table's order. -/
def rows : List Row := [
  ⟨0x00, .zero, .zero, .zero, .zero, .zero, .zero, fun _ => .nop⟩,
  ⟨0x01, .scal, .buf, .zero, .zero, .zero, .zero, fun x => .baLen (scalOf x.a) (bufOf x.b)⟩,
  ⟨0x02, .buf, .buf, .scal, .scal, .zero, .zero, fun x => .baSlice (bufOf x.a) (bufOf x.b) (scalOf x.c) (scalOf x.d)⟩,
  ⟨0x03, .scal, .buf, .scal, .scal, .zero, .zero, fun x => .baExtract (scalOf x.a) (bufOf x.b) (scalOf x.c) (scalOf x.d)⟩,
  ⟨0x04, .buf, .buf, .buf, .zero, .zero, .zero, fun x => .baConcat (bufOf x.a) (bufOf x.b) (bufOf x.c)⟩,
  ⟨0x05, .buf, .buf, .scal, .zero, .zero, .zero, fun x => .baClamp (bufOf x.a) (bufOf x.b) (scalOf x.c)⟩,
  ⟨0x06, .scal, .buf, .buf, .zero, .zero, .zero, fun x => .baEqual (scalOf x.a) (bufOf x.b) (bufOf x.c)⟩,
  ⟨0x07, .buf, .scal, .scal, .zero, .zero, .flag1, fun x => .baPartial (bufOf x.a) (scalOf x.b) (scalOf x.c) (x.f.getLsbD 0)⟩,
  ⟨0x08, .scal, .buf, .zero, .zero, .zero, .zero, fun x => .baGetPartial (scalOf x.a) (bufOf x.b)⟩,
  ⟨0x0f, .zero, .zero, .zero, .zero, .zero, .zero, fun _ => .zeroize⟩,
  ⟨0x10, .buf, .buf, .zero, .zero, .zero, .zero, fun x => .hexDec (bufOf x.a) (bufOf x.b)⟩,
  ⟨0x11, .buf, .buf, .zero, .zero, .zero, .zero, fun x => .hexEnc (bufOf x.a) (bufOf x.b)⟩,
  ⟨0x12, .buf, .buf, .zero, .zero, .zero, .flag1, fun x => .b64Dec (bufOf x.a) (bufOf x.b) (x.f.getLsbD 0)⟩,
  ⟨0x13, .buf, .buf, .zero, .zero, .zero, .flag2, fun x => .b64Enc (bufOf x.a) (bufOf x.b) (x.f.getLsbD 0) (x.f.getLsbD 1)⟩,
  ⟨0x20, .slot, .buf, .zero, .zero, .zero, .zero, fun x => .aesKey (slotOf x.a) (bufOf x.b)⟩,
  ⟨0x21, .buf, .buf, .zero, .zero, .slot, .zero, fun x => .aesEnc (bufOf x.a) (bufOf x.b) (slotOf x.e)⟩,
  ⟨0x22, .buf, .buf, .zero, .zero, .slot, .zero, fun x => .aesDec (bufOf x.a) (bufOf x.b) (slotOf x.e)⟩,
  ⟨0x30, .slot, .zero, .zero, .zero, .zero, .flag1, fun x => .hashReset (slotOf x.a) (algOf x.f)⟩,
  ⟨0x31, .slot, .buf, .zero, .zero, .zero, .zero, fun x => .hashUpdate (slotOf x.a) (bufOf x.b)⟩,
  ⟨0x32, .buf, .zero, .zero, .zero, .slot, .zero, fun x => .hashFinal (bufOf x.a) (slotOf x.e)⟩,
  ⟨0x33, .buf, .buf, .zero, .zero, .zero, .flag1, fun x => .hashDigest (bufOf x.a) (bufOf x.b) (algOf x.f)⟩,
  ⟨0x40, .buf, .buf, .buf, .zero, .zero, .flag1, fun x => .hmac (bufOf x.a) (bufOf x.b) (bufOf x.c) (algOf x.f)⟩,
  ⟨0x41, .buf, .buf, .buf, .scal, .scal, .flag1, fun x => .pbkdf2 (bufOf x.a) (bufOf x.b) (bufOf x.c) (scalOf x.d) (scalOf x.e) (algOf x.f)⟩,
  ⟨0x42, .zero, .buf, .buf, .scal, .scal, .flag1, fun x => .pbkdf2Init (bufOf x.b) (bufOf x.c) (scalOf x.d) (scalOf x.e) (algOf x.f)⟩,
  ⟨0x43, .scal, .scal, .zero, .zero, .zero, .zero, fun x => .pbkdf2Step (scalOf x.a) (scalOf x.b)⟩,
  ⟨0x44, .buf, .zero, .zero, .zero, .zero, .zero, fun x => .pbkdf2Read (bufOf x.a)⟩,
  ⟨0x50, .buf, .buf, .buf, .buf, .slot, .zero, fun x => .cbcEnc (bufOf x.a) (bufOf x.b) (bufOf x.c) (bufOf x.d) (slotOf x.e)⟩,
  ⟨0x51, .buf, .buf, .buf, .buf, .slot, .zero, fun x => .cbcDec (bufOf x.a) (bufOf x.b) (bufOf x.c) (bufOf x.d) (slotOf x.e)⟩,
  ⟨0x52, .buf, .buf, .buf, .buf, .slot, .imm4, fun x => .ccmEnc (bufOf x.a) (bufOf x.b) (bufOf x.c) (bufOf x.d) (slotOf x.e) x.f.toNat⟩,
  ⟨0x53, .buf, .buf, .buf, .buf, .slot, .imm4, fun x => .ccmDec (bufOf x.a) (bufOf x.b) (bufOf x.c) (bufOf x.d) (slotOf x.e) x.f.toNat⟩,
  ⟨0x54, .buf, .buf, .buf, .buf, .slot, .imm4, fun x => .ocb2Enc (bufOf x.a) (bufOf x.b) (bufOf x.c) (bufOf x.d) (slotOf x.e) x.f.toNat⟩,
  ⟨0x55, .buf, .buf, .buf, .buf, .slot, .imm4, fun x => .ocb2Dec (bufOf x.a) (bufOf x.b) (bufOf x.c) (bufOf x.d) (slotOf x.e) x.f.toNat⟩,
  ⟨0x56, .buf, .buf, .buf, .buf, .slot, .imm4, fun x => .gcmEnc (bufOf x.a) (bufOf x.b) (bufOf x.c) (bufOf x.d) (slotOf x.e) x.f.toNat⟩,
  ⟨0x57, .buf, .buf, .buf, .buf, .slot, .imm4, fun x => .gcmDec (bufOf x.a) (bufOf x.b) (bufOf x.c) (bufOf x.d) (slotOf x.e) x.f.toNat⟩,
  ⟨0x60, .zero, .scal, .scal, .imm4, .zero, .flag1, fun x => .rngAddentN (scalOf x.b) (scalOf x.c) (bufOf x.d) (x.f.getLsbD 0)⟩,
  ⟨0x61, .zero, .buf, .scal, .imm4, .zero, .flag1, fun x => .rngAddentW (bufOf x.b) (scalOf x.c) (bufOf x.d) (x.f.getLsbD 0)⟩,
  ⟨0x62, .zero, .buf, .scal, .imm4, .zero, .flag1, fun x => .rngAddentS (bufOf x.b) (scalOf x.c) (bufOf x.d) (x.f.getLsbD 0)⟩,
  ⟨0x63, .scal, .zero, .zero, .zero, .zero, .imm4, fun x => .rngIsReady (scalOf x.a) x.f.toNat⟩,
  ⟨0x64, .buf, .zero, .scal, .zero, .zero, .imm4, fun x => .rngWords (bufOf x.a) (scalOf x.c) x.f.toNat⟩,
  ⟨0x70, .buf, .buf, .zero, .zero, .zero, .flag1, fun x => .envDec (bufOf x.a) (bufOf x.b) (x.f.getLsbD 0)⟩,
  ⟨0x71, .zero, .buf, .buf, .zero, .zero, .flag1, fun x => .envEnc (bufOf x.b) (bufOf x.c) (x.f.getLsbD 0)⟩,
  ⟨0x72, .zero, .buf, .zero, .zero, .zero, .zero, fun x => .envParse (bufOf x.b)⟩,
  ⟨0x73, .buf, .zero, .zero, .zero, .zero, .zero, fun x => .envSer (bufOf x.a)⟩,
  ⟨0x80, .buf, .buf, .zero, .zero, .zero, .zero, fun x => .md5 (bufOf x.a) (bufOf x.b)⟩,
  ⟨0x81, .scal, .buf, .zero, .zero, .zero, .zero, fun x => .crc32 (scalOf x.a) (bufOf x.b)⟩,
  ⟨0x82, .zero, .buf, .scal, .zero, .zero, .zero, fun x => .rc2Key (bufOf x.b) (scalOf x.c)⟩,
  ⟨0x83, .buf, .buf, .zero, .zero, .zero, .zero, fun x => .rc2Enc (bufOf x.a) (bufOf x.b)⟩,
  ⟨0x84, .buf, .buf, .zero, .zero, .zero, .zero, fun x => .rc2Dec (bufOf x.a) (bufOf x.b)⟩,
  ⟨0x85, .buf, .buf, .buf, .zero, .zero, .zero, fun x => .legacyDec (bufOf x.a) (bufOf x.b) (bufOf x.c)⟩,
  ⟨0x86, .buf, .buf, .buf, .zero, .zero, .zero, fun x => .legacyEnc (bufOf x.a) (bufOf x.b) (bufOf x.c)⟩,
  ⟨0x90, .buf, .buf, .buf, .zero, .zero, .zero, fun x => .enc0Dec (bufOf x.a) (bufOf x.b) (bufOf x.c)⟩,
  ⟨0x91, .buf, .buf, .buf, .buf, .scal, .zero, fun x => .dispatchDec (bufOf x.a) (bufOf x.b) (bufOf x.c) (bufOf x.d) (scalOf x.e)⟩
  ]

/-- Every field holds what the row lets it hold (R103, R106). -/
def Row.admits (r : Row) (x : Fields) : Bool :=
  r.a.admits x.a && r.b.admits x.b && r.c.admits x.c && r.d.admits x.d && r.e.admits x.e && r.f.admits x.f

/-- The mask of the row (R106): 1 where a bit of the word is fixed. -/
def Row.mask (r : Row) : Word :=
  (0xFF#8) ++ r.a.mask ++ r.b.mask ++ r.c.mask ++ r.d.mask ++ r.e.mask ++ r.f.mask

/-- The match of the row (R106): the opcode in bits 31:24 and 0 elsewhere. -/
def Row.pattern (r : Row) : Word := r.op ++ (0#24)

/-- Why a word is no legal encoding (R112). -/
inductive DecodeError where
  /-- The opcode byte is not in the table. -/
  | reservedOpcode (op : Byte)
  /-- The opcode is in the table, but a register number is out of range or a must-be-zero bit is set. -/
  | badField (op : Byte)
deriving DecidableEq, Repr

/-- The command of seven fields, or why there is none (R105, R112). -/
def decodeFields (x : Fields) : Except DecodeError Instr :=
  match rows.find? (fun r => r.op == x.op) with
  | none => .error (.reservedOpcode x.op)
  | some r => if r.admits x then .ok (r.build x) else .error (.badField x.op)

/-- Decoding of a command word (R100 step 2): total, and a word no row matches is rejected by name. -/
def decode (cw : Word) : Except DecodeError Instr := decodeFields (Fields.ofWord cw)

/-- A register number or tag as a 4-bit field. -/
def nibble {n : Nat} (i : Fin n) : BitVec 4 := BitVec.ofNat 4 i.val

/-- The hash selector as field `f`. -/
def algNibble : HashAlg → BitVec 4
  | .sha256 => 0
  | .sha512 => 1

/-- Two flag bits as field `f`. -/
def flagNibble (bit0 bit1 : Bool) : BitVec 4 :=
  (if bit0 then 1 else 0) ||| (if bit1 then 2 else 0)

/-- The fields of a command (R105). -/
def encodeFields : Instr → Fields
  | .nop => ⟨0x00, 0, 0, 0, 0, 0, 0⟩
  | .baLen a b => ⟨0x01, (nibble a), (nibble b), 0, 0, 0, 0⟩
  | .baSlice a b c d => ⟨0x02, (nibble a), (nibble b), (nibble c), (nibble d), 0, 0⟩
  | .baExtract a b c d => ⟨0x03, (nibble a), (nibble b), (nibble c), (nibble d), 0, 0⟩
  | .baConcat a b c => ⟨0x04, (nibble a), (nibble b), (nibble c), 0, 0, 0⟩
  | .baClamp a b c => ⟨0x05, (nibble a), (nibble b), (nibble c), 0, 0, 0⟩
  | .baEqual a b c => ⟨0x06, (nibble a), (nibble b), (nibble c), 0, 0, 0⟩
  | .baPartial a b c high => ⟨0x07, (nibble a), (nibble b), (nibble c), 0, 0, (flagNibble high false)⟩
  | .baGetPartial a b => ⟨0x08, (nibble a), (nibble b), 0, 0, 0, 0⟩
  | .zeroize => ⟨0x0f, 0, 0, 0, 0, 0, 0⟩
  | .hexDec a b => ⟨0x10, (nibble a), (nibble b), 0, 0, 0, 0⟩
  | .hexEnc a b => ⟨0x11, (nibble a), (nibble b), 0, 0, 0, 0⟩
  | .b64Dec a b url => ⟨0x12, (nibble a), (nibble b), 0, 0, 0, (flagNibble url false)⟩
  | .b64Enc a b url nopad => ⟨0x13, (nibble a), (nibble b), 0, 0, 0, (flagNibble url nopad)⟩
  | .aesKey a b => ⟨0x20, (nibble a), (nibble b), 0, 0, 0, 0⟩
  | .aesEnc a b e => ⟨0x21, (nibble a), (nibble b), 0, 0, (nibble e), 0⟩
  | .aesDec a b e => ⟨0x22, (nibble a), (nibble b), 0, 0, (nibble e), 0⟩
  | .hashReset a alg => ⟨0x30, (nibble a), 0, 0, 0, 0, (algNibble alg)⟩
  | .hashUpdate a b => ⟨0x31, (nibble a), (nibble b), 0, 0, 0, 0⟩
  | .hashFinal a e => ⟨0x32, (nibble a), 0, 0, 0, (nibble e), 0⟩
  | .hashDigest a b alg => ⟨0x33, (nibble a), (nibble b), 0, 0, 0, (algNibble alg)⟩
  | .hmac a b c alg => ⟨0x40, (nibble a), (nibble b), (nibble c), 0, 0, (algNibble alg)⟩
  | .pbkdf2 a b c d e alg => ⟨0x41, (nibble a), (nibble b), (nibble c), (nibble d), (nibble e), (algNibble alg)⟩
  | .pbkdf2Init b c d e alg => ⟨0x42, 0, (nibble b), (nibble c), (nibble d), (nibble e), (algNibble alg)⟩
  | .pbkdf2Step a b => ⟨0x43, (nibble a), (nibble b), 0, 0, 0, 0⟩
  | .pbkdf2Read a => ⟨0x44, (nibble a), 0, 0, 0, 0, 0⟩
  | .cbcEnc a b c d e => ⟨0x50, (nibble a), (nibble b), (nibble c), (nibble d), (nibble e), 0⟩
  | .cbcDec a b c d e => ⟨0x51, (nibble a), (nibble b), (nibble c), (nibble d), (nibble e), 0⟩
  | .ccmEnc a b c d e tl => ⟨0x52, (nibble a), (nibble b), (nibble c), (nibble d), (nibble e), (BitVec.ofNat 4 tl)⟩
  | .ccmDec a b c d e tl => ⟨0x53, (nibble a), (nibble b), (nibble c), (nibble d), (nibble e), (BitVec.ofNat 4 tl)⟩
  | .ocb2Enc a b c d e tl => ⟨0x54, (nibble a), (nibble b), (nibble c), (nibble d), (nibble e), (BitVec.ofNat 4 tl)⟩
  | .ocb2Dec a b c d e tl => ⟨0x55, (nibble a), (nibble b), (nibble c), (nibble d), (nibble e), (BitVec.ofNat 4 tl)⟩
  | .gcmEnc a b c d e tl => ⟨0x56, (nibble a), (nibble b), (nibble c), (nibble d), (nibble e), (BitVec.ofNat 4 tl)⟩
  | .gcmDec a b c d e tl => ⟨0x57, (nibble a), (nibble b), (nibble c), (nibble d), (nibble e), (BitVec.ofNat 4 tl)⟩
  | .rngAddentN b c tag defest => ⟨0x60, 0, (nibble b), (nibble c), (nibble tag), 0, (flagNibble defest false)⟩
  | .rngAddentW b c tag defest => ⟨0x61, 0, (nibble b), (nibble c), (nibble tag), 0, (flagNibble defest false)⟩
  | .rngAddentS b c tag defest => ⟨0x62, 0, (nibble b), (nibble c), (nibble tag), 0, (flagNibble defest false)⟩
  | .rngIsReady a level => ⟨0x63, (nibble a), 0, 0, 0, 0, (BitVec.ofNat 4 level)⟩
  | .rngWords a c level => ⟨0x64, (nibble a), 0, (nibble c), 0, 0, (BitVec.ofNat 4 level)⟩
  | .envDec a b rawkey => ⟨0x70, (nibble a), (nibble b), 0, 0, 0, (flagNibble rawkey false)⟩
  | .envEnc b c rawkey => ⟨0x71, 0, (nibble b), (nibble c), 0, 0, (flagNibble rawkey false)⟩
  | .envParse b => ⟨0x72, 0, (nibble b), 0, 0, 0, 0⟩
  | .envSer a => ⟨0x73, (nibble a), 0, 0, 0, 0, 0⟩
  | .md5 a b => ⟨0x80, (nibble a), (nibble b), 0, 0, 0, 0⟩
  | .crc32 a b => ⟨0x81, (nibble a), (nibble b), 0, 0, 0, 0⟩
  | .rc2Key b c => ⟨0x82, 0, (nibble b), (nibble c), 0, 0, 0⟩
  | .rc2Enc a b => ⟨0x83, (nibble a), (nibble b), 0, 0, 0, 0⟩
  | .rc2Dec a b => ⟨0x84, (nibble a), (nibble b), 0, 0, 0, 0⟩
  | .legacyDec a b c => ⟨0x85, (nibble a), (nibble b), (nibble c), 0, 0, 0⟩
  | .legacyEnc a b c => ⟨0x86, (nibble a), (nibble b), (nibble c), 0, 0, 0⟩
  | .enc0Dec a b c => ⟨0x90, (nibble a), (nibble b), (nibble c), 0, 0, 0⟩
  | .dispatchDec a b c d e => ⟨0x91, (nibble a), (nibble b), (nibble c), (nibble d), (nibble e), 0⟩

/-- The command word of a command (R101, R105). -/
def encode (i : Instr) : Word := (encodeFields i).toWord

/-- The opcode byte of a command (R105). -/
def opcode (i : Instr) : Byte := (encodeFields i).op

/-- The command the decoder reads from an instruction of `nbits` bits numbered as `spec/opcode_table.json` numbers
them. A command is one 32-bit word (R101), so bit 0 is the word's least significant bit and no bit lies above 31. -/
def decodeTableWord (nbits w : Nat) : Option Instr :=
  let v := w % 2 ^ nbits
  if v < 2 ^ 32 then
    match decode (BitVec.ofNat 32 v) with
    | .ok i => some i
    | .error _ => none
  else none

end Sys2Proof
end

