-- ==== Sys2Proof/Machine/Contexts.lean ====
section
/-! DEFINITION. The records STG-CORE's state is made of: cipher, hash, PBKDF2 and generator contexts, the envelope
registers, the status registers, and the host's actions (10_state.md R25 to R38; 60_exceptions.md R451). -/

namespace Sys2Proof.Machine

/-- A full AES key-context slot (R25): `Nk`, `Nr`, the encryption schedule `w` and the decryption schedule `dw`. -/
structure AesCtx where
  nk : Nat
  nr : Nat
  w : List Word
  dw : List Word
deriving DecidableEq, Repr

/-- The streaming state of one hash of word width `w` (R26): the running words, the pending bit string, and the total
number of bits given to `update` since the last reset. -/
structure ShaState (w : Nat) where
  h : Hash8 w
  buf : Bits
  len : Nat
deriving DecidableEq, Repr

/-- A full hash-context slot (R26): its algorithm and that algorithm's streaming state. -/
inductive HashCtx where
  | sha256 (c : ShaState 32)
  | sha512 (c : ShaState 64)
deriving DecidableEq, Repr

/-- The RC2 key table `K[0..63]` (R27, R402). -/
abbrev Rc2Table := Vector (BitVec 16) 64

/-- State of the PBKDF2 engine (R37, R240). -/
inductive PbkState where
  | idle
  | run
  | done
deriving DecidableEq, Repr

/-- The PBKDF2 engine (R37). `last` is the field `U`, `acc` the field `T`. -/
structure PbkEngine where
  state : PbkState
  alg : HashAlg
  pw : Bits
  salt : Bits
  count : Nat
  length : Nat
  k : Nat
  i : Nat
  last : Bits
  acc : Bits
  out : Bits
deriving DecidableEq, Repr

/-- One entropy pool of the generator: its running SHA-256 and the entropy estimate it holds (R38). -/
structure Pool where
  ctx : ShaState 32
  entropy : Word
deriving DecidableEq, Repr

/-- The 128-bit block counter as four 32-bit words, `c0` least significant (R38, R330). -/
structure Ctr where
  (c0 c1 c2 c3 : Word)
deriving DecidableEq, Repr

/-- The generator (R38). There is always a pool 0; `more` holds the pools after it, so `npools` is one more than its
length. -/
structure Prng where
  pool0 : Pool
  more : List Pool
  poolStrength : Word
  strength : Word
  reseedCount : Word
  robin : Vector Nat 16
  eventId : Word
  nextReseed : BitVec 64
  key : BitVec 256
  ctr : Ctr
  cipher : Option AesCtx
deriving DecidableEq, Repr

/-- The envelope registers (R34). -/
structure EnvRegs where
  v : Word
  iter : Word
  ks : Word
  ts : Word
  mode : Word
  cipher : Word
deriving DecidableEq, Repr

/-- The errors a command can end in (R451). -/
inductive Err where
  | invalidParameter
  | invalidKeySize
  | invalidBlockSize
  | invalidIV
  | notSupported
  | bufferOverflow
  | illegalCommand
  | invalidState
  | invalidEncoding
  | invalidEnvelope
  | corruptPadding
  | corruptTag
  | generatorNotSeeded
  | unsupportedCipher
  | unsupportedMode
  | badPassword
deriving DecidableEq, Repr

/-- `STATUS` (R29). Its bits 31:4 read as 0 and no command or host write can set them. -/
structure Status where
  busy : Bool
  done : Bool
  err : Bool
  errs : Bool
deriving DecidableEq, Repr

/-- `ERR` and `ERRFIRST` (R31): the opcode byte and the error code, `none` being `OK`. -/
structure ErrReg where
  op : Byte
  code : Option Err
deriving DecidableEq, Repr

/-- One action of the world outside the core (R17, R19): the host's register reads and writes, the platform's update
of `TIME` and `NOISE` (R470), and the external reset (R490). `size` is the width of the access in bytes (R71). -/
inductive HostAction where
  | read (addr : BitVec 12) (size : Nat)
  | write (addr : BitVec 12) (size : Nat) (v : Word)
  | setTime (now : BitVec 64)
  | setNoise (noise : Vector Word 16)
  | reset
deriving DecidableEq, Repr

end Sys2Proof.Machine
end

