-- ==== Sys2Proof/Config.lean ====
section
/-! DEFINITION. What an implementation fixes (00_scope.md R10) and the values the spec leaves open: constants with
no body, which nothing in Lean can evaluate. The parameters to which R10 gives a value stand in Machine/Params.lean. -/

namespace Sys2Proof

/-- How far `BUF_MAX_BITS` lies above its least value: `some e` is `BUF_MAX_BITS = 2^20 + e`, `none` is an unbounded
buffer (R10: "a model may take it as unbounded"; U4: a parameter). Free: every claim holds for each value. Log entry 3. -/
opaque Config.bufMaxBeyond : Option Nat

/-- What `BLEN` reads as when the selected buffer is longer than a 32-bit register can say (only with `BUF_MAX_BITS`
of `2^32` or more): R74 states no value there. Free value, a function of the length. Log entry 4. -/
opaque Config.blenTooLong : Nat → Word

/-- What `BPTR` becomes when `BDATA` moves past word `2^32 - 1` (only with `BUF_MAX_BITS` above `2^37`): R75 and R76
state no value there. Free value. Log entry 4. -/
opaque Config.bptrPastEnd : Word

/-- The message length a digest's length field holds for a message of `2^64` bits or more (only with `BUF_MAX_BITS` of
that size): R211 keeps the counter below `2^64` and R215 states the digest below it. Free value. Log entry 18. -/
opaque Config.hashLengthBeyond : Nat → Nat

/-- The 32-bit length of CCM's associated-data header for `2^32` bytes or more (only with `BUF_MAX_BITS` of `2^35` or
more): R272 states the header below that. Free value. Log entry 14. -/
opaque Config.ccmAdataBeyond : Nat → Word

end Sys2Proof
end

