-- ==== Sys2Proof/Machine/Params.lean ====
section
/-! DEFINITION. The named parameters of 00_scope.md R10 that have a value, and the test against the one that is open. -/

namespace Sys2Proof.Machine

/-- The least capacity of a buffer the spec allows, in bits: `BUF_MAX_BITS` is "OPEN, at least 2^20" (R10, D4). -/
def minBufBits : Nat := 2 ^ 20

/-- A length fits in a buffer: `n ≤ BUF_MAX_BITS`, the capacity being `2^20` and what `Config.bufMaxBeyond` says
beyond it (R10, R132). A length up to `2^20` fits whatever the capacity is. -/
def fitsBuf (n : Nat) : Bool :=
  decide (n ≤ minBufBits) ||
    match Config.bufMaxBeyond with
    | none => true
    | some e => decide (n ≤ minBufBits + e)

/-- `RNG_MAX_POOLS` (R10, R322). -/
def rngMaxPools : Nat := 32

/-- `RNG_BURST_WORDS` (R10, R322). -/
def rngBurstWords : Nat := 65536

/-- `RNG_MS_PER_RESEED` (R10, R322). -/
def rngMsPerReseed : Nat := 30000

/-- `RNG_BITS_PER_RESEED` (R10, R322). -/
def rngBitsPerReseed : Nat := 80

/-- `RNG_DEFAULT_PARANOIA` (R10, R32). -/
def rngDefaultParanoia : BitVec 4 := 6

/-- `ENC0_ITER` (R10, R247). -/
def enc0Iter : Nat := 50000

/-- The constant of the `ID` register (R36): ASCII "STG1". -/
def idWord : Word := 0x53544731

end Sys2Proof.Machine
end

