-- ==== Sys2Proof/Machine/State.lean ====
section
/-! DEFINITION. The architectural state of STG-CORE and its reset values (10_state.md R41; 70_reset_and_hazards.md
R490, R491), and the reasons a step can stop. -/

namespace Sys2Proof.Machine

/-- The state of STG-CORE (R41), and two fields of the model's own: `hostIn`, what the host and the platform do next,
and `hostOut`, what the host's reads returned (log entries 1 and 2). -/
structure State where
  /-- `B0..B15` (R22). -/
  buf : Vector Bits 16
  /-- `S0..S7` (R24). -/
  scal : Vector Word 8
  /-- `K0..K3` (R25). -/
  keys : Vector (Option AesCtx) 4
  /-- `H0..H3` (R26). -/
  hashes : Vector (Option HashCtx) 4
  /-- `RK` (R27). -/
  rk : Option Rc2Table
  /-- The PBKDF2 engine (R37). -/
  pbk : PbkEngine
  /-- The generator (R38). -/
  rng : Prng
  /-- `CMD` (R30). -/
  cmd : Word
  /-- `STATUS` (R29). -/
  status : Status
  /-- `ERR` (R31). -/
  err : ErrReg
  /-- `ERRFIRST` (R31). -/
  errFirst : ErrReg
  /-- `CMDCNT` (R28). -/
  cmdCnt : Word
  /-- `CTRL.DEFPARANOIA` (R32). Bits 31:4 of `CTRL` read as 0. -/
  defParanoia : BitVec 4
  /-- `BSEL` (R33, R73). -/
  bsel : BufIx
  /-- `BPTR` (R33, R75). -/
  bptr : Word
  /-- `ENV_V .. ENV_CIPHER` (R34). -/
  env : EnvRegs
  /-- `TIME_LO` (R35). -/
  timeLo : Word
  /-- `TIME_HI` (R35). -/
  timeHi : Word
  /-- `NOISE0..NOISE15` (R35). -/
  noise : Vector Word 16
  /-- The model's own: the actions of host and platform still to come, the next one first. -/
  hostIn : List HostAction
  /-- The model's own: the values the host's reads returned, the latest first. -/
  hostOut : List Word
deriving DecidableEq, Repr

/-- Reasons the machine stops. No command of the spec stops it ("No error stops the core", R450): both reasons stand
for states that R325 and R331 say never occur, and no run from reset reaches them. -/
inductive Fault where
  /-- Raised by `RNG.ADDENT.*` when `robin[tag]` names no pool; "`r < npools` always holds" (R325). Safe: the state
  is one the spec rules out. Log entry 6. -/
  | rngPoolMissing
  /-- Raised by `RNG.WORDS` when it is to generate while `cipher` is empty; "`cipher` is never empty when `gen4` is
  called" (R331). Safe: the state is one the spec rules out. Log entry 6. -/
  | rngCipherMissing
deriving DecidableEq, Repr

/-- Reasons an instruction is refused. Every command has a meaning, so none is raised. -/
inductive Refusal where
  /-- Would be raised by `exec` for a command without a meaning; no command is. Safe. -/
  | notModelled (mnemonic : String)
deriving DecidableEq, Repr

/-- The reset values of the PBKDF2 engine (R37). -/
def PbkEngine.reset : PbkEngine :=
  { state := .idle, alg := .sha256, pw := [], salt := [], count := 0, length := 0, k := 1, i := 0,
    last := [], acc := [], out := [] }

/-- A freshly reset SHA-256 context (R26, R212). -/
def ShaState.fresh256 : ShaState 32 := { h := iv256, buf := [], len := 0 }

/-- A freshly reset SHA-512 context (R26, R212). -/
def ShaState.fresh512 : ShaState 64 := { h := iv512, buf := [], len := 0 }

/-- The reset values of the generator (R38). -/
def Prng.reset : Prng :=
  { pool0 := { ctx := ShaState.fresh256, entropy := 0 }, more := [], poolStrength := 0, strength := 0,
    reseedCount := 0, robin := Vector.replicate 16 0, eventId := 0, nextReseed := 0, key := 0,
    ctr := ⟨0, 0, 0, 0⟩, cipher := none }

/-- The defaults of the envelope registers (R34, R360). -/
def EnvRegs.reset : EnvRegs := { v := 1, iter := 1000, ks := 128, ts := 64, mode := 0, cipher := 0 }

/-- The machine right after reset (R490, R491), with nothing yet done by the host. -/
def State.reset : State :=
  { buf := Vector.replicate 16 [], scal := Vector.replicate 8 0, keys := Vector.replicate 4 none,
    hashes := Vector.replicate 4 none, rk := none, pbk := PbkEngine.reset, rng := Prng.reset, cmd := 0,
    status := { busy := false, done := false, err := false, errs := false },
    err := { op := 0, code := none }, errFirst := { op := 0, code := none }, cmdCnt := 0,
    defParanoia := rngDefaultParanoia, bsel := 0, bptr := 0, env := EnvRegs.reset, timeLo := 0, timeHi := 0,
    noise := Vector.replicate 16 0, hostIn := [], hostOut := [] }

/-- What a step, and a meaning, answers. -/
abbrev Out := Host.Outcome State Fault Refusal

end Sys2Proof.Machine
end

