-- ==== Sys2Proof/Machine/Flags.lean ====
section
/-! DEFINITION. The status registers: their words as the host reads them (10_state.md R29, R31; 60_exceptions.md R451)
and what the end of a command writes to them (30_encoding.md R100 step 6; 60_exceptions.md R456). -/

namespace Sys2Proof.Machine

/-- The error codes (R451). -/
def Err.code : Err → Byte
  | .invalidParameter => 0x10
  | .invalidKeySize => 0x11
  | .invalidBlockSize => 0x12
  | .invalidIV => 0x13
  | .notSupported => 0x14
  | .bufferOverflow => 0x15
  | .illegalCommand => 0x16
  | .invalidState => 0x17
  | .invalidEncoding => 0x20
  | .invalidEnvelope => 0x21
  | .corruptPadding => 0x30
  | .corruptTag => 0x31
  | .generatorNotSeeded => 0x40
  | .unsupportedCipher => 0x50
  | .unsupportedMode => 0x51
  | .badPassword => 0x60

/-- `ERR.CODE`: the code of the error, `0x00` for success (R31, R451). -/
def ErrReg.codeByte (r : ErrReg) : Byte :=
  match r.code with
  | none => 0x00
  | some e => e.code

/-- The word of `ERR` and of `ERRFIRST` (R31): `CODE` in bits 7:0, `OP` in bits 15:8, 0 above. -/
def ErrReg.toWord (r : ErrReg) : Word := (0#16) ++ r.op ++ r.codeByte

/-- The cleared `ERRFIRST` (R31). -/
def ErrReg.zero : ErrReg := { op := 0, code := none }

/-- The word of `STATUS` (R29). -/
def Status.toWord (t : Status) : Word :=
  (0#28) ++ BitVec.ofBool t.errs ++ BitVec.ofBool t.err ++ BitVec.ofBool t.done ++ BitVec.ofBool t.busy

/-- The end of a command that succeeded (R100 step 6, R456): `ERR.CODE` and `STATUS.ERR` become 0, `ERRFIRST` and
`STATUS.ERRS` stay, the command is counted. -/
def State.succeed (op : Byte) (s : State) : State :=
  { s with
    status := { s.status with busy := false, done := true, err := false }
    err := { op := op, code := none }
    cmdCnt := s.cmdCnt + 1 }

/-- What `ERRFIRST` becomes when a command fails (R456): it keeps the first failure since it was last cleared. -/
def errFirstAfter (old new : ErrReg) : ErrReg := if old.toWord = 0 then new else old

/-- The status writes of error entry (R456). -/
def State.fail (op : Byte) (e : Err) (s : State) : State :=
  { s with
    status := { busy := false, done := true, err := true, errs := true }
    err := { op := op, code := some e }
    errFirst := errFirstAfter s.errFirst { op := op, code := some e }
    cmdCnt := s.cmdCnt + 1 }

end Sys2Proof.Machine
end

