-- ==== Sys2Proof/Machine/BitString.lean ====
section
/-! DEFINITION. Bit strings and their reading as integers, words and bytes (00_scope.md R11; 10_state.md R20;
20_memory.md R77). -/

namespace Sys2Proof.Machine

/-- `int(x)`: the unsigned integer whose binary numeral, most significant digit first, is `x` (R11). -/
def bitsToNat (x : Bits) : Nat := x.foldl (fun acc b => 2 * acc + b.toNat) 0

/-- `bits_n(v)`: the `n`-bit string with `int(bits_n(v)) = v mod 2^n` (R11). -/
def natToBits : Nat → Nat → Bits
  | 0, _ => []
  | n + 1, v => v.testBit n :: natToBits n v

/-- The bit string of an `n`-bit word, most significant bit first; `W(v)` of R11 is this at 32 bits. -/
def bvToBits {n : Nat} (v : BitVec n) : Bits := natToBits n v.toNat

/-- The word of a bit string: `int(x)` as an `n`-bit word. -/
def bitsToBv (n : Nat) (x : Bits) : BitVec n := BitVec.ofNat n (bitsToNat x)

/-- `slice(x, s, e)`: the bits `s .. e-1` (R11). -/
def slice (x : Bits) (s e : Nat) : Bits := (x.take e).drop s

/-- `0^n` (R11). -/
def zeros (n : Nat) : Bits := List.replicate n false

/-- `padr(x, n)`: `x` with zeros appended up to `n` bits (R11). -/
def padr (x : Bits) (n : Nat) : Bits := x ++ zeros (n - x.length)

/-- `x ⊕ y` (R11); of two strings of different length, the common length. -/
def xorBits (x y : Bits) : Bits := List.zipWith xor x y

/-- `a` divided by `b`, rounded up. -/
def ceilDiv (a b : Nat) : Nat := (a + b - 1) / b

/-- `x` cut into consecutive pieces of `n` bits, the last possibly shorter; the first argument bounds the count. -/
def piecesOf (n : Nat) : Nat → Bits → List Bits
  | 0, _ => []
  | k + 1, x => if x.isEmpty then [] else x.take n :: piecesOf n k (x.drop n)

/-- All pieces of `n` bits of `x`, no piece for the empty string. -/
def splitEvery (n : Nat) (x : Bits) : List Bits := piecesOf n x.length x

/-- `bytes(x)` for a string of whole bytes (R11), each byte most significant bit first (R77). -/
def bytesOf (x : Bits) : List Byte := (splitEvery 8 x).map (bitsToBv 8)

/-- The bit string of a byte string (R77). -/
def ofBytes (l : List Byte) : Bits := l.flatMap bvToBits

/-- `byte(x, i)` (R11). -/
def byteAt (x : Bits) (i : Nat) : Byte := bitsToBv 8 (slice x (8 * i) (8 * i + 8))

/-- Word `i` of the word representation of `x`: the 32 bits from `32 i`, or, for the final word, the remaining bits in
the high bits with the low bits zero (R20, R76). For a full word it is `word(x, i)` of R11. -/
def wordAt (x : Bits) (i : Nat) : Word := bitsToBv 32 (padr (slice x (32 * i) (32 * i + 32)) 32)

/-- The number of words of the word representation (R20, R74). -/
def wordCount (x : Bits) : Nat := ceilDiv x.length 32

/-- The out-of-band count of the final word: `1..32`, or 0 for the empty string (R20, R140). -/
def partialCount (x : Bits) : Nat :=
  if x.length = 0 then 0 else x.length - 32 * (ceilDiv x.length 32 - 1)

/-- The 128-bit block of a bit string, zero-padded on the right when it is shorter. -/
def blockOf (x : Bits) : Block := bitsToBv 128 (padr x 128)

/-- `blocks(x)`: consecutive 128-bit pieces, the last possibly shorter (44_modes_cbc_ccm.md, opening). -/
def blocks (x : Bits) : List Bits := splitEvery 128 x

/-- A character's ASCII byte. -/
def ascii (l : List Char) : List Byte := l.map fun c => BitVec.ofNat 8 c.toNat

/-- `sext_32` (R12): the signed value of a 32-bit word. -/
def sext32 (v : Word) : Int := v.toInt

end Sys2Proof.Machine
end

