-- ==== Sys2Proof/Machine/Operands.lean ====
section
/-! DEFINITION. Reading a command's operands (00_scope.md R13; 30_encoding.md R101 to R104). -/

namespace Sys2Proof.Machine

/-- `B[i]` (R13, R22). -/
def State.bufAt (s : State) (i : BufIx) : Bits := s.buf.get i

/-- `S[i]` (R13, R24). -/
def State.scalAt (s : State) (i : ScalIx) : Word := s.scal.get i

/-- `S[i]` as a natural number: a bit position, a length or a count (R24). -/
def State.natAt (s : State) (i : ScalIx) : Nat := (s.scalAt i).toNat

/-- `sext_32(S[i])` (R12, R237). -/
def State.signedAt (s : State) (i : ScalIx) : Int := sext32 (s.scalAt i)

/-- The key-context slot `K[i]`, `none` when it is empty (R25). -/
def State.keyAt (s : State) (i : KeyIx) : Option AesCtx := s.keys.get i

/-- The hash-context slot `H[i]`, `none` when it is empty (R26). -/
def State.hashAt (s : State) (i : HashIx) : Option HashCtx := s.hashes.get i

/-- `NOW = TIME_HI·2^32 + TIME_LO` (R35). -/
def State.now (s : State) : BitVec 64 := s.timeHi ++ s.timeLo

/-- `NOISE = W(NOISE0) ‖ … ‖ W(NOISE15)` (R35). -/
def State.noiseBits (s : State) : Bits := s.noise.toList.flatMap bvToBits

/-- The buffers the envelope unit names by fixed number (R23): associated data, IV, salt, ciphertext. -/
def adataBuf : BufIx := 12
/-- See `adataBuf` (R23). -/
def ivBuf : BufIx := 13
/-- See `adataBuf` (R23). -/
def saltBuf : BufIx := 14
/-- See `adataBuf` (R23). -/
def ctBuf : BufIx := 15

end Sys2Proof.Machine
end

