-- ==== Sys2Proof/Machine/Ops.lean ====
section
/-! DEFINITION. The writes to the register files, the end of a command, and error entry: the one way an error is taken
(60_exceptions.md R456). There is no return from an error (R457); what the host does instead, writing `ERRFIRST`, is
`ackErrors`. -/

namespace Sys2Proof.Machine

/-- `B[i] <- x` (R13). -/
def State.setBuf (s : State) (i : BufIx) (x : Bits) : State := { s with buf := s.buf.set i.val x i.isLt }

/-- `S[i] <- v` (R13). -/
def State.setScal (s : State) (i : ScalIx) (v : Word) : State := { s with scal := s.scal.set i.val v i.isLt }

/-- `K[i] <- c` (R13, R25). -/
def State.setKey (s : State) (i : KeyIx) (c : AesCtx) : State := { s with keys := s.keys.set i.val (some c) i.isLt }

/-- `H[i] <- c` (R13, R26). -/
def State.setHash (s : State) (i : HashIx) (c : HashCtx) : State :=
  { s with hashes := s.hashes.set i.val (some c) i.isLt }

/-- `RK <- t` (R27). -/
def State.setRk (s : State) (t : Rc2Table) : State := { s with rk := some t }

/-- `engine <- e` (R37). -/
def State.setPbk (s : State) (e : PbkEngine) : State := { s with pbk := e }

/-- A new state of the generator (R38). -/
def State.setRng (s : State) (p : Prng) : State := { s with rng := p }

/-- New envelope registers (R34). -/
def State.setEnv (s : State) (r : EnvRegs) : State := { s with env := r }

/-- A command ends in success (R100, R450). -/
def finish (op : Byte) (s : State) : Out := .next (s.succeed op)

/-- Error entry of a command that has no buffer destination (R456): nothing changes but the status registers. -/
def raise (op : Byte) (e : Err) (s : State) : Out := .next (s.fail op e)

/-- Error entry of a command whose field `a` is a buffer destination (R456): that buffer is emptied, and nothing else
changes but the status registers. -/
def raiseTo (op : Byte) (a : BufIx) (e : Err) (s : State) : Out := .next ((s.setBuf a []).fail op e)

/-- A command whose one result is a bit string for the buffer `B[a]`. -/
def resultToBuf (op : Byte) (a : BufIx) (r : Except Err Bits) (s : State) : Out :=
  match r with
  | .ok x => finish op (s.setBuf a x)
  | .error e => raiseTo op a e s

/-- A command whose one result is a word for the scalar `S[a]`; on an error the scalar keeps its value (R456). -/
def resultToScal (op : Byte) (a : ScalIx) (r : Except Err Word) (s : State) : Out :=
  match r with
  | .ok v => finish op (s.setScal a v)
  | .error e => raise op e s

/-- An illegal command (R112, R456): it changes the status registers and `CMDCNT` only, and empties no buffer. -/
def illegalCommand (op : Byte) (s : State) : State := s.fail op .illegalCommand

/-- The host's acknowledgement of errors, a write of any value to `ERRFIRST` (R31, R457): it clears `ERRFIRST` and
`STATUS.ERRS`. -/
def ackErrors (s : State) : State :=
  { s with errFirst := ErrReg.zero, status := { s.status with errs := false } }

/-- Reset (R490): every piece of the core's state takes its reset value. What the host has read, and what it still
means to do, is not the core's state. -/
def hardReset (s : State) : State := { State.reset with hostIn := s.hostIn, hostOut := s.hostOut }

end Sys2Proof.Machine
end

