-- ==== Sys2Proof/Machine/Aes.lean ====
section
/-! DEFINITION. The AES block cipher and key schedule (41_aes.md R170 to R189). -/

namespace Sys2Proof.Machine

/-- Multiplication by `x` in GF(2^8) (R170). -/
def xtime (a : Byte) : Byte := if a.getLsbD 7 then (a <<< 1) ^^^ 0x1B else a <<< 1

/-- One step of `gmul` for bit `i` of `b`: the partial sum and the multiple of `a` (R170). -/
def gmulStep (b : Byte) (ra : Byte × Byte) (i : Nat) : Byte × Byte :=
  (if b.getLsbD i then ra.1 ^^^ ra.2 else ra.1, xtime ra.2)

/-- The product in GF(2^8) (R170). -/
def gmul (a b : Byte) : Byte := ((List.range 8).foldl (gmulStep b) (0, a)).1

/-- The multiplicative inverse in GF(2^8), `ginv(0) = 0` (R170), computed as the power `a^254`: the field has 255
nonzero elements (DEDUCED, log entry 12). -/
def ginv (a : Byte) : Byte :=
  let a2 := gmul a a
  let a4 := gmul a2 a2
  let a8 := gmul a4 a4
  let a16 := gmul a8 a8
  let a32 := gmul a16 a16
  let a64 := gmul a32 a32
  let a128 := gmul a64 a64
  gmul (gmul (gmul a2 a4) (gmul a8 a16)) (gmul (gmul a32 a64) a128)

/-- The S-box by its defining formula (R171). -/
def sboxFormula (x : Byte) : Byte :=
  let b := ginv x
  b ^^^ b.rotateLeft 1 ^^^ b.rotateLeft 2 ^^^ b.rotateLeft 3 ^^^ b.rotateLeft 4 ^^^ 0x63

/-- The entry for `x` of a table printed as 16 rows of 16 bytes: row the high nibble of `x`, column the low (R171). -/
def tableByte (rows : List Nat) (x : Byte) : Byte :=
  BitVec.ofNat 8 (rows.getD (x.toNat / 16) 0 >>> (8 * (15 - x.toNat % 16)))

/-- The rows of `SBOX` (R171). -/
def sboxRows : List Nat := [
  0x637c777bf26b6fc53001672bfed7ab76, 0xca82c97dfa5947f0add4a2af9ca472c0, 0xb7fd9326363ff7cc34a5e5f171d83115,
  0x04c723c31896059a071280e2eb27b275, 0x09832c1a1b6e5aa0523bd6b329e32f84, 0x53d100ed20fcb15b6acbbe394a4c58cf,
  0xd0efaafb434d338545f9027f503c9fa8, 0x51a3408f929d38f5bcb6da2110fff3d2, 0xcd0c13ec5f974417c4a77e3d645d1973,
  0x60814fdc222a908846eeb814de5e0bdb, 0xe0323a0a4906245cc2d3ac629195e479, 0xe7c8376d8dd54ea96c56f4ea657aae08,
  0xba78252e1ca6b4c6e8dd741f4bbd8b8a, 0x703eb5664803f60e613557b986c11d9e, 0xe1f8981169d98e949b1e87e9ce5528df,
  0x8ca1890dbfe6426841992d0fb054bb16
  ]

/-- The rows of `INVSBOX` (R171). -/
def invSboxRows : List Nat := [
  0x52096ad53036a538bf40a39e81f3d7fb, 0x7ce339829b2fff87348e4344c4dee9cb, 0x547b9432a6c2233dee4c950b42fac34e,
  0x082ea16628d924b2765ba2496d8bd125, 0x72f8f66486689816d4a45ccc5d65b692, 0x6c704850fdedb9da5e154657a78d9d84,
  0x90d8ab008cbcd30af7e45805b8b34506, 0xd02c1e8fca3f0f02c1afbd0301138a6b, 0x3a9111414f67dcea97f2cfcef0b4e673,
  0x96ac7422e7ad3585e2f937e81c75df6e, 0x47f11a711d29c5896fb7620eaa18be1b, 0xfc563e4bc6d279209adbc0fe78cd5af4,
  0x1fdda8338807c731b11210592780ec5f, 0x60517fa919b54a0d2de57a9f93c99cef, 0xa0e03b4dae2af5b0c8ebbb3c83539961,
  0x172b047eba77d626e169146355210c7d
  ]

/-- `SBOX` (R171). -/
def sbox (x : Byte) : Byte := tableByte sboxRows x

/-- `INVSBOX` (R171). -/
def invSbox (x : Byte) : Byte := tableByte invSboxRows x

/-- A column of the AES state: four bytes, row 0 first (R172). -/
structure Col where
  (r0 r1 r2 r3 : Byte)
deriving DecidableEq, Repr

/-- The AES state: four columns (R172). -/
structure AesState where
  (c0 c1 c2 c3 : Col)
deriving DecidableEq, Repr

/-- A 32-bit word as a column, row 0 in its most significant byte (R172). -/
def colOfWord (v : Word) : Col :=
  ⟨v.extractLsb' 24 8, v.extractLsb' 16 8, v.extractLsb' 8 8, v.extractLsb' 0 8⟩

/-- A column as a 32-bit word (R172). -/
def Col.toWord (c : Col) : Word := c.r0 ++ c.r1 ++ c.r2 ++ c.r3

/-- A block as the state, column by column (R172). -/
def stateOfBlock (x : Block) : AesState :=
  ⟨colOfWord (x.extractLsb' 96 32), colOfWord (x.extractLsb' 64 32), colOfWord (x.extractLsb' 32 32),
    colOfWord (x.extractLsb' 0 32)⟩

/-- The state as a block (R172). -/
def AesState.toBlock (s : AesState) : Block := s.c0.toWord ++ s.c1.toWord ++ s.c2.toWord ++ s.c3.toWord

/-- A byte function on each byte of a column. -/
def Col.map (f : Byte → Byte) (c : Col) : Col := ⟨f c.r0, f c.r1, f c.r2, f c.r3⟩

/-- A column function on each column of a state. -/
def AesState.map (f : Col → Col) (s : AesState) : AesState := ⟨f s.c0, f s.c1, f s.c2, f s.c3⟩

/-- `SubBytes` (R179). -/
def subBytes (s : AesState) : AesState := s.map (Col.map sbox)

/-- `InvSubBytes` (R179). -/
def invSubBytes (s : AesState) : AesState := s.map (Col.map invSbox)

/-- `ShiftRows`: row `r` rotated left by `r` places (R179). -/
def shiftRows (s : AesState) : AesState :=
  ⟨⟨s.c0.r0, s.c1.r1, s.c2.r2, s.c3.r3⟩, ⟨s.c1.r0, s.c2.r1, s.c3.r2, s.c0.r3⟩,
    ⟨s.c2.r0, s.c3.r1, s.c0.r2, s.c1.r3⟩, ⟨s.c3.r0, s.c0.r1, s.c1.r2, s.c2.r3⟩⟩

/-- `InvShiftRows` (R179). -/
def invShiftRows (s : AesState) : AesState :=
  ⟨⟨s.c0.r0, s.c3.r1, s.c2.r2, s.c1.r3⟩, ⟨s.c1.r0, s.c0.r1, s.c3.r2, s.c2.r3⟩,
    ⟨s.c2.r0, s.c1.r1, s.c0.r2, s.c3.r3⟩, ⟨s.c3.r0, s.c2.r1, s.c1.r2, s.c0.r3⟩⟩

/-- `MixColumns` on one column (R179). -/
def mixCol (c : Col) : Col :=
  ⟨gmul c.r0 0x02 ^^^ gmul c.r1 0x03 ^^^ c.r2 ^^^ c.r3, c.r0 ^^^ gmul c.r1 0x02 ^^^ gmul c.r2 0x03 ^^^ c.r3,
    c.r0 ^^^ c.r1 ^^^ gmul c.r2 0x02 ^^^ gmul c.r3 0x03, gmul c.r0 0x03 ^^^ c.r1 ^^^ c.r2 ^^^ gmul c.r3 0x02⟩

/-- `InvMixWord` on one column (R177). -/
def invMixCol (c : Col) : Col :=
  ⟨gmul c.r0 0x0e ^^^ gmul c.r1 0x0b ^^^ gmul c.r2 0x0d ^^^ gmul c.r3 0x09,
    gmul c.r0 0x09 ^^^ gmul c.r1 0x0e ^^^ gmul c.r2 0x0b ^^^ gmul c.r3 0x0d,
    gmul c.r0 0x0d ^^^ gmul c.r1 0x09 ^^^ gmul c.r2 0x0e ^^^ gmul c.r3 0x0b,
    gmul c.r0 0x0b ^^^ gmul c.r1 0x0d ^^^ gmul c.r2 0x09 ^^^ gmul c.r3 0x0e⟩

/-- `InvMixWord` on a 32-bit word (R177). -/
def invMixWord (v : Word) : Word := (invMixCol (colOfWord v)).toWord

/-- `MixColumns` (R179). -/
def mixColumns (s : AesState) : AesState := s.map mixCol

/-- `InvMixColumns` (R179). -/
def invMixColumns (s : AesState) : AesState := s.map invMixCol

/-- The bytes of two columns xored. -/
def Col.xor (x y : Col) : Col := ⟨x.r0 ^^^ y.r0, x.r1 ^^^ y.r1, x.r2 ^^^ y.r2, x.r3 ^^^ y.r3⟩

/-- `AddRoundKey` with the four words `ks[4r .. 4r+3]` of a schedule (R176, R179). -/
def addRoundKey (ks : List Word) (r : Nat) (s : AesState) : AesState :=
  ⟨s.c0.xor (colOfWord (ks.getD (4 * r) 0)), s.c1.xor (colOfWord (ks.getD (4 * r + 1) 0)),
    s.c2.xor (colOfWord (ks.getD (4 * r + 2) 0)), s.c3.xor (colOfWord (ks.getD (4 * r + 3) 0))⟩

/-- `RCON[i] = x^(i-1)`, `i = 1..10` (R173). -/
def rcon (i : Nat) : Byte :=
  ([0x01, 0x02, 0x04, 0x08, 0x10, 0x20, 0x40, 0x80, 0x1b, 0x36] : List Byte).getD (i - 1) 0

/-- `SubWord` (R173). -/
def subWord (v : Word) : Word := ((colOfWord v).map sbox).toWord

/-- `RotWord` (R173). -/
def rotWord (v : Word) : Word := v.rotateLeft 8

/-- One word of the encryption schedule, `w[i]`, put before the words `w[i-1], w[i-2], …, w[0]` (R176). -/
def expandWord (nk : Nat) (rev : List Word) (i : Nat) : List Word :=
  let t := rev.getD 0 0
  let t' :=
    if i % nk = 0 then subWord (rotWord t) ^^^ (rcon (i / nk) ++ (0#24))
    else if nk = 8 ∧ i % nk = 4 then subWord t
    else t
  (rev.getD (nk - 1) 0 ^^^ t') :: rev

/-- The number of rounds for a key of `nk` words (R175). -/
def roundsOf (nk : Nat) : Nat := nk + 6

/-- The encryption schedule of a key of `nk` words: `4(Nr+1)` words (R176). -/
def encSchedule (nk : Nat) (key : Bits) : List Word :=
  ((List.range' nk (4 * (roundsOf nk + 1) - nk)).foldl (expandWord nk) ((List.range nk).map (wordAt key)).reverse).reverse

/-- The decryption schedule: the round keys in reverse order, the inner ones through `InvMixWord` (R178). -/
def decSchedule (nr : Nat) (w : List Word) : List Word :=
  (List.range (nr + 1)).flatMap fun r =>
    (List.range 4).map fun j =>
      let v := w.getD (4 * (nr - r) + j) 0
      if r = 0 ∨ r = nr then v else invMixWord v

/-- The AES context of a key of 128, 192 or 256 bits (R174). -/
def aesContext (key : Bits) : AesCtx :=
  let nk := key.length / 32
  let w := encSchedule nk key
  { nk := nk, nr := roundsOf nk, w := w, dw := decSchedule (roundsOf nk) w }

/-- A key length AES has (R174). -/
def isAesKeyLength (n : Nat) : Bool := n == 128 || n == 192 || n == 256

/-- One inner round of encryption, for round `r` (R180). -/
def encRound (w : List Word) (s : AesState) (r : Nat) : AesState :=
  addRoundKey w r (mixColumns (shiftRows (subBytes s)))

/-- `E_K(x)` (R180). -/
def aesEncrypt (k : AesCtx) (x : Block) : Block :=
  let s := addRoundKey k.w 0 (stateOfBlock x)
  let s := (List.range' 1 (k.nr - 1)).foldl (encRound k.w) s
  (addRoundKey k.w k.nr (shiftRows (subBytes s))).toBlock

/-- One inner round of decryption, for round `r` (R181). -/
def decRound (w : List Word) (s : AesState) (r : Nat) : AesState :=
  invMixColumns (addRoundKey w r (invSubBytes (invShiftRows s)))

/-- `D_K(y)` (R181). -/
def aesDecrypt (k : AesCtx) (y : Block) : Block :=
  let s := addRoundKey k.w k.nr (stateOfBlock y)
  let s := (List.range' 1 (k.nr - 1)).reverse.foldl (decRound k.w) s
  (addRoundKey k.w 0 (invSubBytes (invShiftRows s))).toBlock

/-- One inner round of decryption with the decryption schedule (R183). -/
def decRoundEq (dw : List Word) (s : AesState) (r : Nat) : AesState :=
  addRoundKey dw r (invMixColumns (invShiftRows (invSubBytes s)))

/-- Decryption with the decryption schedule `dw` (R183): the same function as `aesDecrypt` on every context that
`AES.KEY` makes. -/
def aesDecryptEq (k : AesCtx) (y : Block) : Block :=
  let s := addRoundKey k.dw 0 (stateOfBlock y)
  let s := (List.range' 1 (k.nr - 1)).foldl (decRoundEq k.dw) s
  (addRoundKey k.dw k.nr (invShiftRows (invSubBytes s))).toBlock

/-- The encryption table `T_j[x]`: the column `(02·S, S, S, 03·S)` rotated down by `j` rows (R186). -/
def encTable (j : Nat) (x : Byte) : Word :=
  (Col.toWord ⟨gmul (sbox x) 0x02, sbox x, sbox x, gmul (sbox x) 0x03⟩).rotateRight (8 * j)

/-- The decryption table `D_j[x]`: the column `(0e·I, 09·I, 0d·I, 0b·I)` rotated down by `j` rows (R186). -/
def decTable (j : Nat) (x : Byte) : Word :=
  let i := invSbox x
  (Col.toWord ⟨gmul i 0x0e, gmul i 0x09, gmul i 0x0d, gmul i 0x0b⟩).rotateRight (8 * j)

/-- One output column of an inner round by the tables `tab` (R186): `T_0[a] ^ T_1[b] ^ T_2[c] ^ T_3[d] ^ k`. -/
def tableColumn (tab : Nat → Byte → Word) (a b c d : Byte) (k : Word) : Col :=
  colOfWord (tab 0 a ^^^ tab 1 b ^^^ tab 2 c ^^^ tab 3 d ^^^ k)

/-- One inner round of encryption by the tables (R186). -/
def encRoundTables (w : List Word) (s : AesState) (r : Nat) : AesState :=
  ⟨tableColumn encTable s.c0.r0 s.c1.r1 s.c2.r2 s.c3.r3 (w.getD (4 * r) 0),
    tableColumn encTable s.c1.r0 s.c2.r1 s.c3.r2 s.c0.r3 (w.getD (4 * r + 1) 0),
    tableColumn encTable s.c2.r0 s.c3.r1 s.c0.r2 s.c1.r3 (w.getD (4 * r + 2) 0),
    tableColumn encTable s.c3.r0 s.c0.r1 s.c1.r2 s.c2.r3 (w.getD (4 * r + 3) 0)⟩

/-- One inner round of decryption with the schedule `dw` by the tables (R183, R186); the rows are shifted the other
way. -/
def decRoundTables (dw : List Word) (s : AesState) (r : Nat) : AesState :=
  ⟨tableColumn decTable s.c0.r0 s.c3.r1 s.c2.r2 s.c1.r3 (dw.getD (4 * r) 0),
    tableColumn decTable s.c1.r0 s.c0.r1 s.c3.r2 s.c2.r3 (dw.getD (4 * r + 1) 0),
    tableColumn decTable s.c2.r0 s.c1.r1 s.c0.r2 s.c3.r3 (dw.getD (4 * r + 2) 0),
    tableColumn decTable s.c3.r0 s.c2.r1 s.c1.r2 s.c0.r3 (dw.getD (4 * r + 3) 0)⟩

/-- The state a block command needs: a full slot, else `InvalidState`, before anything else is looked at (R182, R260). -/
def withKey (k : Option AesCtx) (f : AesCtx → Except Err Bits) : Except Err Bits :=
  match k with
  | none => .error .invalidState
  | some ctx => f ctx

/-- One block through a block function: exactly 128 bits, else `InvalidBlockSize` (R182, R184). -/
def oneBlock (f : Block → Block) (x : Bits) : Except Err Bits :=
  if x.length ≠ 128 then .error .invalidBlockSize else .ok (bvToBits (f (blockOf x)))

/-- `AES.KEY` (R174); on an error the slot is unchanged. -/
def execAesKey (a : KeyIx) (b : BufIx) (s : State) : Out :=
  if isAesKeyLength (s.bufAt b).length then finish 0x20 (s.setKey a (aesContext (s.bufAt b)))
  else raise 0x20 .invalidKeySize s

/-- `AES.ENC` (R182). -/
def execAesEnc (a b : BufIx) (e : KeyIx) (s : State) : Out :=
  resultToBuf 0x21 a (withKey (s.keyAt e) fun k => oneBlock (aesEncrypt k) (s.bufAt b)) s

/-- `AES.DEC` (R184). -/
def execAesDec (a b : BufIx) (e : KeyIx) (s : State) : Out :=
  resultToBuf 0x22 a (withKey (s.keyAt e) fun k => oneBlock (aesDecrypt k) (s.bufAt b)) s

end Sys2Proof.Machine
end

