-- ==== Sys2Proof/Machine/BitArray.lean ====
section
/-! DEFINITION. The BitArray commands (40_bitarray_codecs.md R132 to R140). -/

namespace Sys2Proof.Machine

/-- The capacity test on a result (R132): `BufferOverflow` when it is longer than `BUF_MAX_BITS`. -/
def capacity (n : Nat) (r : Except Err Bits) : Except Err Bits :=
  if fitsBuf n then r else .error .bufferOverflow

/-- `|x|` as a scalar; a length that no 32-bit scalar holds is `InvalidParameter` (R133). -/
def baLen (x : Bits) : Except Err Word :=
  if x.length < 2 ^ 32 then .ok (BitVec.ofNat 32 x.length) else .error .invalidParameter

/-- `slice(x, start, end)`, defined for `start ≤ end ≤ |x|` (R134). -/
def baSlice (x : Bits) (start stop : Nat) : Except Err Bits :=
  if start ≤ stop ∧ stop ≤ x.length then .ok (slice x start stop) else .error .invalidParameter

/-- `int(slice(x, start, start+len))`, defined for `len ≤ 32` and `start + len ≤ |x|` (R135). -/
def baExtract (x : Bits) (start len : Nat) : Except Err Word :=
  if len ≤ 32 ∧ start + len ≤ x.length then .ok (BitVec.ofNat 32 (bitsToNat (slice x start (start + len))))
  else .error .invalidParameter

/-- `x ‖ y`, when it fits (R136). -/
def baConcat (x y : Bits) : Except Err Bits := capacity (x.length + y.length) (.ok (x ++ y))

/-- `x` cut to `len` bits, unchanged when it has no more (R137). -/
def baClamp (x : Bits) (len : Nat) : Bits := if len < x.length then slice x 0 len else x

/-- 1 when the two bit strings are equal, lengths included, else 0 (R138). -/
def baEqual (x y : Bits) : Word := if x.length = y.length ∧ x = y then 1 else 0

/-- A bit string of `len ≤ 32` bits from one word: its low `len` bits, or, for `high`, its high `len` bits (R139). -/
def baPartial (v : Word) (len : Nat) (high : Bool) : Except Err Bits :=
  if len ≤ 32 then .ok (if high then slice (bvToBits v) 0 len else natToBits len v.toNat)
  else .error .invalidParameter

/-- `BA.LEN` (R133). -/
def execBaLen (a : ScalIx) (b : BufIx) (s : State) : Out := resultToScal 0x01 a (baLen (s.bufAt b)) s

/-- `BA.SLICE` (R134). -/
def execBaSlice (a b : BufIx) (c d : ScalIx) (s : State) : Out :=
  resultToBuf 0x02 a (baSlice (s.bufAt b) (s.natAt c) (s.natAt d)) s

/-- `BA.EXTRACT` (R135). -/
def execBaExtract (a : ScalIx) (b : BufIx) (c d : ScalIx) (s : State) : Out :=
  resultToScal 0x03 a (baExtract (s.bufAt b) (s.natAt c) (s.natAt d)) s

/-- `BA.CONCAT` (R136). -/
def execBaConcat (a b c : BufIx) (s : State) : Out :=
  resultToBuf 0x04 a (baConcat (s.bufAt b) (s.bufAt c)) s

/-- `BA.CLAMP` (R137). -/
def execBaClamp (a b : BufIx) (c : ScalIx) (s : State) : Out :=
  resultToBuf 0x05 a (.ok (baClamp (s.bufAt b) (s.natAt c))) s

/-- `BA.EQUAL` (R138). -/
def execBaEqual (a : ScalIx) (b c : BufIx) (s : State) : Out :=
  resultToScal 0x06 a (.ok (baEqual (s.bufAt b) (s.bufAt c))) s

/-- `BA.PARTIAL` (R139). -/
def execBaPartial (a : BufIx) (b c : ScalIx) (high : Bool) (s : State) : Out :=
  resultToBuf 0x07 a (baPartial (s.scalAt b) (s.natAt c) high) s

/-- `BA.GETPARTIAL` (R140). -/
def execBaGetPartial (a : ScalIx) (b : BufIx) (s : State) : Out :=
  resultToScal 0x08 a (.ok (BitVec.ofNat 32 (partialCount (s.bufAt b)))) s

end Sys2Proof.Machine
end

