-- ==== Sys2Proof/Machine/CbcCcm.lean ====
section
/-! DEFINITION. The CBC and CCM modes (44_modes_cbc_ccm.md R260 to R279). A mode function answers the result or the
error its command ends in; the key slot is looked at first (`withKey`, R260 step 1). -/

namespace Sys2Proof.Machine

/-- A whole number of bytes. -/
def wholeBytes (x : Bits) : Bool := x.length % 8 == 0

/-- The parameter checks of CBC, in their order (R261). -/
def cbcChecks (iv adata : Bits) : Except Err Unit :=
  if adata.length ≠ 0 then .error .notSupported
  else if iv.length ≠ 128 then .error .invalidIV
  else .ok ()

/-- The pad length of a plaintext of `n` bytes: `1..16` (R262). -/
def cbcPad (n : Nat) : Nat := 16 - n % 16

/-- The padded plaintext (R262). -/
def cbcPadded (pt : Bits) : Bits :=
  let p := cbcPad (pt.length / 8)
  pt ++ ofBytes (List.replicate p (BitVec.ofNat 8 p))

/-- The chained blocks of CBC encryption, after the block `prev` (R262). -/
def cbcChainEnc (f : Block → Block) : Block → List Block → List Block
  | _, [] => []
  | prev, m :: ms =>
    let c := f (m ^^^ prev)
    c :: cbcChainEnc f c ms

/-- The chained blocks of CBC decryption, after the block `prev` (R264). -/
def cbcChainDec (g : Block → Block) : Block → List Block → List Block
  | _, [] => []
  | prev, c :: cs => (g c ^^^ prev) :: cbcChainDec g c cs

/-- CBC encryption (R262). -/
def cbcEncrypt (k : AesCtx) (pt iv adata : Bits) : Except Err Bits :=
  match cbcChecks iv adata with
  | .error e => .error e
  | .ok _ =>
    if !wholeBytes pt then .error .invalidParameter
    else capacity (cbcPadded pt).length
      (.ok ((cbcChainEnc (aesEncrypt k) (blockOf iv) ((blocks (cbcPadded pt)).map blockOf)).flatMap bvToBits))

/-- The pad length a decrypted string of whole bytes ends in, when its padding is valid: all the pad bytes are checked
(R263). -/
def cbcPadOf (m : Bits) : Option Nat :=
  let bs := bytesOf m
  let p := (bs.getLastD 0).toNat
  if 1 ≤ p ∧ p ≤ 16 ∧ ((bs.drop (bs.length - p)).all fun b => b.toNat == p) then some p else none

/-- CBC decryption (R264). -/
def cbcDecrypt (k : AesCtx) (ct iv adata : Bits) : Except Err Bits :=
  match cbcChecks iv adata with
  | .error e => .error e
  | .ok _ =>
    if ct.length = 0 ∨ ct.length % 128 ≠ 0 then .error .corruptPadding
    else
      let m := (cbcChainDec (aesDecrypt k) (blockOf iv) ((blocks ct).map blockOf)).flatMap bvToBits
      match cbcPadOf m with
      | none => .error .corruptPadding
      | some p => .ok (slice m 0 (m.length - 8 * p))

/-- The parameter checks of CCM, in their order (R270). -/
def ccmChecks (data iv adata : Bits) (tlen : Nat) : Except Err Unit :=
  if !(wholeBytes iv && wholeBytes adata && wholeBytes data) then .error .invalidParameter
  else if iv.length < 56 then .error .invalidIV
  else if !(32 ≤ tlen && tlen ≤ 128 && tlen % 16 == 0) then .error .invalidParameter
  else .ok ()

/-- The least of 2, 3, 4 whose bytes can hold `ol` (R271). -/
def ccmLeastL (ol : Nat) : Nat := if ol < 2 ^ 16 then 2 else if ol < 2 ^ 24 then 3 else 4

/-- The counter width `L` in bytes (R271), for an IV of `ivl` bytes and `ol` bytes of data. -/
def ccmL (ivl ol : Nat) : Nat := max (ccmLeastL ol) (15 - ivl)

/-- The nonce: the first `15 - L` bytes of the IV (R271). -/
def ccmNonce (iv : Bits) (L : Nat) : Bits := slice iv 0 (8 * (15 - L))

/-- The first block, `B0` (R272). -/
def ccmB0 (nonce : Bits) (L t ol : Nat) (hasAdata : Bool) : Bits :=
  natToBits 8 ((if hasAdata then 0x40 else 0) ||| (((t - 2) / 2) <<< 3) ||| (L - 1)) ++ nonce ++ natToBits (8 * L) ol

/-- The 32-bit length of the long header; from `2^32` bytes on, where R272 states none, a free value (log entry 14). -/
def ccmLongLength (al : Nat) : Word := if al < 2 ^ 32 then BitVec.ofNat 32 al else Config.ccmAdataBeyond al

/-- The header of `al` bytes of associated data (R272). -/
def ccmHeader (al : Nat) : Bits :=
  if al ≤ 0xFEFF then natToBits 16 al else natToBits 16 0xFFFE ++ bvToBits (ccmLongLength al)

/-- The counter block `A_i` (R272). -/
def ccmA (nonce : Bits) (L i : Nat) : Bits := natToBits 8 (L - 1) ++ nonce ++ natToBits (8 * L) i

/-- One step of the CBC-MAC: `E(mac ⊕ padr(b, 128))` (R273). -/
def ccmMacStep (f : Block → Block) (mac : Block) (b : Bits) : Block := f (mac ^^^ blockOf b)

/-- The tag over header, associated data and plaintext, before it is masked (R273). -/
def ccmTag (f : Block → Block) (pt nonce adata : Bits) (L tlen : Nat) : Bits :=
  let ol := pt.length / 8
  let mac := f (blockOf (ccmB0 nonce L (tlen / 8) ol (decide (0 < adata.length))))
  let mac := if 0 < adata.length then (blocks (ccmHeader (adata.length / 8) ++ adata)).foldl (ccmMacStep f) mac else mac
  (bvToBits ((blocks pt).foldl (ccmMacStep f) mac)).take tlen

/-- Counter mode from counter `i` on (R274): each piece xored with the leading bits of `E(A_i)`. -/
def ccmCtrFrom (f : Block → Block) (nonce : Bits) (L : Nat) : Nat → List Bits → Bits
  | _, [] => []
  | i, b :: bs => xorBits b (bvToBits (f (blockOf (ccmA nonce L i)))) ++ ccmCtrFrom f nonce L (i + 1) bs

/-- Counter mode over data (R274). -/
def ccmCtr (f : Block → Block) (nonce : Bits) (L : Nat) (data : Bits) : Bits :=
  ccmCtrFrom f nonce L 1 (blocks data)

/-- The tag under its mask, `T ⊕ slice(E(A_0), 0, tlen)` (R274, R276). -/
def ccmMask (f : Block → Block) (nonce : Bits) (L : Nat) (t : Bits) : Bits :=
  xorBits t (bvToBits (f (blockOf (ccmA nonce L 0))))

/-- CCM encryption (R276). -/
def ccmEncrypt (k : AesCtx) (pt iv adata : Bits) (tlen : Nat) : Except Err Bits :=
  match ccmChecks pt iv adata tlen with
  | .error e => .error e
  | .ok _ =>
    let ol := pt.length / 8
    let L := ccmL (iv.length / 8) ol
    let nonce := ccmNonce iv L
    if 2 ^ 32 ≤ ol then .error .invalidParameter
    else capacity (pt.length + tlen)
      (.ok (ccmCtr (aesEncrypt k) nonce L pt ++
        ccmMask (aesEncrypt k) nonce L (ccmTag (aesEncrypt k) pt nonce adata L tlen)))

/-- CCM decryption (R277). -/
def ccmDecrypt (k : AesCtx) (ct iv adata : Bits) (tlen : Nat) : Except Err Bits :=
  match ccmChecks ct iv adata tlen with
  | .error e => .error e
  | .ok _ =>
    if ct.length < tlen then .error .corruptTag
    else
      let c := ct.take (ct.length - tlen)
      let tag := ct.drop (ct.length - tlen)
      let ol := c.length / 8
      let L := ccmL (iv.length / 8) ol
      let nonce := ccmNonce iv L
      if 2 ^ 32 ≤ ol then .error .invalidParameter
      else
        let p := ccmCtr (aesEncrypt k) nonce L c
        if ccmMask (aesEncrypt k) nonce L tag = ccmTag (aesEncrypt k) p nonce adata L tlen then .ok p
        else .error .corruptTag

/-- `CBC.ENC` (R262). -/
def execCbcEnc (a b c d : BufIx) (e : KeyIx) (s : State) : Out :=
  resultToBuf 0x50 a (withKey (s.keyAt e) fun k => cbcEncrypt k (s.bufAt b) (s.bufAt c) (s.bufAt d)) s

/-- `CBC.DEC` (R264). -/
def execCbcDec (a b c d : BufIx) (e : KeyIx) (s : State) : Out :=
  resultToBuf 0x51 a (withKey (s.keyAt e) fun k => cbcDecrypt k (s.bufAt b) (s.bufAt c) (s.bufAt d)) s

/-- `CCM.ENC` (R276); the tag length is `16·tl` bits (R102). -/
def execCcmEnc (a b c d : BufIx) (e : KeyIx) (tl : Nat) (s : State) : Out :=
  resultToBuf 0x52 a (withKey (s.keyAt e) fun k => ccmEncrypt k (s.bufAt b) (s.bufAt c) (s.bufAt d) (16 * tl)) s

/-- `CCM.DEC` (R277). -/
def execCcmDec (a b c d : BufIx) (e : KeyIx) (tl : Nat) (s : State) : Out :=
  resultToBuf 0x53 a (withKey (s.keyAt e) fun k => ccmDecrypt k (s.bufAt b) (s.bufAt c) (s.bufAt d) (16 * tl)) s

end Sys2Proof.Machine
end

