-- ==== Sys2Proof/Machine/Codecs.lean ====
section
/-! DEFINITION. The hexadecimal and base64 codecs (40_bitarray_codecs.md R141 to R147). -/

namespace Sys2Proof.Machine

/-- `f` of every element of a list, or nothing when `f` is nothing of one of them. -/
def decodeAll {α β : Type} (f : α → Option β) : List α → Option (List β)
  | [] => some []
  | x :: xs =>
    match f x, decodeAll f xs with
    | some y, some ys => some (y :: ys)
    | _, _ => none

/-- `hexval` (R142): `0`-`9`, `a`-`f`, `A`-`F`. -/
def hexVal (c : Byte) : Option Nat :=
  let n := c.toNat
  if 0x30 ≤ n ∧ n ≤ 0x39 then some (n - 0x30)
  else if 0x61 ≤ n ∧ n ≤ 0x66 then some (n - 0x61 + 10)
  else if 0x41 ≤ n ∧ n ≤ 0x46 then some (n - 0x41 + 10)
  else none

/-- The lower-case hexadecimal character of a digit `0..15` (R144). -/
def hexLower (d : Nat) : Byte := BitVec.ofNat 8 (if d < 10 then 0x30 + d else 0x61 + (d - 10))

/-- The upper-case hexadecimal character of a digit `0..15` (R410). -/
def hexUpper (d : Nat) : Byte := BitVec.ofNat 8 (if d < 10 then 0x30 + d else 0x41 + (d - 10))

/-- Hexadecimal text to bits (R143). -/
def hexDecode (t : Bits) : Except Err Bits :=
  if t.length % 8 ≠ 0 then .error .invalidParameter
  else
    match decodeAll hexVal (bytesOf t) with
    | none => .error .invalidEncoding
    | some ds => .ok (ds.flatMap (natToBits 4))

/-- Bits to hexadecimal text (R144). -/
def hexEncode (x : Bits) : Except Err Bits :=
  if x.length % 4 ≠ 0 then .error .invalidParameter
  else capacity (2 * x.length) (.ok (ofBytes ((splitEvery 4 x).map fun q => hexLower (bitsToNat q))))

/-- White space removed by the base64 and envelope decoders (R146, R373). -/
def isSpace (c : Byte) : Bool := decide ((0x09 ≤ c.toNat ∧ c.toNat ≤ 0x0D) ∨ c.toNat = 0x20)

/-- The character of a base64 value `0..63` in the standard or the URL-safe alphabet (R145). -/
def b64Char (url : Bool) (v : Nat) : Byte :=
  BitVec.ofNat 8
    (if v < 26 then 0x41 + v
      else if v < 52 then 0x61 + (v - 26)
      else if v < 62 then 0x30 + (v - 52)
      else if v = 62 then (if url then 0x2D else 0x2B)
      else (if url then 0x5F else 0x2F))

/-- `b64val` (R145): the value of a character of the chosen alphabet. -/
def b64Val (url : Bool) (c : Byte) : Option Nat :=
  let n := c.toNat
  if 0x41 ≤ n ∧ n ≤ 0x5A then some (n - 0x41)
  else if 0x61 ≤ n ∧ n ≤ 0x7A then some (n - 0x61 + 26)
  else if 0x30 ≤ n ∧ n ≤ 0x39 then some (n - 0x30 + 52)
  else if n = (if url then 0x2D else 0x2B) then some 62
  else if n = (if url then 0x5F else 0x2F) then some 63
  else none

/-- Base64 characters to bits (R146): white space and `=` are dropped wherever they stand, every other byte must be of
the chosen alphabet, and left-over bits are dropped unchecked. -/
def b64DecodeBytes (url : Bool) (t : List Byte) : Option Bits :=
  match decodeAll (b64Val url) (t.filter fun c => !(isSpace c || c == 0x3D)) with
  | none => none
  | some vs => some ((vs.flatMap (natToBits 6)).take (8 * (6 * vs.length / 8)))

/-- Base64 text to bits (R146). -/
def b64Decode (url : Bool) (t : Bits) : Except Err Bits :=
  if t.length % 8 ≠ 0 then .error .invalidParameter
  else
    match b64DecodeBytes url (bytesOf t) with
    | none => .error .invalidEncoding
    | some x => .ok x

/-- The number of base64 characters of `n` bits, padding apart (R147). -/
def b64Chars (n : Nat) : Nat := ceilDiv n 6

/-- The number of `=` characters after `m` characters (R147). -/
def b64Pads (nopad : Bool) (m : Nat) : Nat := if nopad then 0 else (4 - m % 4) % 4

/-- The base64 characters of a bit string (R147). -/
def b64EncodeBytes (url nopad : Bool) (x : Bits) : List Byte :=
  let m := b64Chars x.length
  (splitEvery 6 (padr x (6 * m))).map (fun q => b64Char url (bitsToNat q)) ++
    List.replicate (b64Pads nopad m) 0x3D

/-- The bit length of the base64 text of `n` bits (R147). -/
def b64TextBits (nopad : Bool) (n : Nat) : Nat := 8 * (b64Chars n + b64Pads nopad (b64Chars n))

/-- Bits to base64 text (R147). -/
def b64Encode (url nopad : Bool) (x : Bits) : Except Err Bits :=
  if x.length % 8 ≠ 0 then .error .invalidParameter
  else capacity (b64TextBits nopad x.length) (.ok (ofBytes (b64EncodeBytes url nopad x)))

/-- `HEX.DEC` (R143). -/
def execHexDec (a b : BufIx) (s : State) : Out := resultToBuf 0x10 a (hexDecode (s.bufAt b)) s

/-- `HEX.ENC` (R144). -/
def execHexEnc (a b : BufIx) (s : State) : Out := resultToBuf 0x11 a (hexEncode (s.bufAt b)) s

/-- `B64.DEC` (R146). -/
def execB64Dec (a b : BufIx) (url : Bool) (s : State) : Out := resultToBuf 0x12 a (b64Decode url (s.bufAt b)) s

/-- `B64.ENC` (R147). -/
def execB64Enc (a b : BufIx) (url nopad : Bool) (s : State) : Out :=
  resultToBuf 0x13 a (b64Encode url nopad (s.bufAt b)) s

end Sys2Proof.Machine
end

