-- ==== Sys2Proof/Machine/Sha2.lean ====
section
/-! DEFINITION. SHA-256 and SHA-512: compression, padding, streaming, and the hash commands (42_sha2.md R200 to R218). -/

namespace Sys2Proof.Machine

/-- What sets one hash apart from the other (R200, R206): block size and length field in bits, the four rotation
functions, the round constants (as many as rounds) and the initial value. -/
structure ShaParams (w : Nat) where
  bs : Nat
  lw : Nat
  bigSigma0 : BitVec w → BitVec w
  bigSigma1 : BitVec w → BitVec w
  sigma0 : BitVec w → BitVec w
  sigma1 : BitVec w → BitVec w
  k : List (BitVec w)
  iv : Hash8 w

/-- SHA-256 (R200, R206). -/
def sha256P : ShaParams 32 :=
  { bs := 512, lw := 64
    bigSigma0 := fun x => x.rotateRight 2 ^^^ x.rotateRight 13 ^^^ x.rotateRight 22
    bigSigma1 := fun x => x.rotateRight 6 ^^^ x.rotateRight 11 ^^^ x.rotateRight 25
    sigma0 := fun x => x.rotateRight 7 ^^^ x.rotateRight 18 ^^^ (x >>> 3)
    sigma1 := fun x => x.rotateRight 17 ^^^ x.rotateRight 19 ^^^ (x >>> 10)
    k := k256, iv := iv256 }

/-- SHA-512 (R200, R206). -/
def sha512P : ShaParams 64 :=
  { bs := 1024, lw := 128
    bigSigma0 := fun x => x.rotateRight 28 ^^^ x.rotateRight 34 ^^^ x.rotateRight 39
    bigSigma1 := fun x => x.rotateRight 14 ^^^ x.rotateRight 18 ^^^ x.rotateRight 41
    sigma0 := fun x => x.rotateRight 1 ^^^ x.rotateRight 8 ^^^ (x >>> 7)
    sigma1 := fun x => x.rotateRight 19 ^^^ x.rotateRight 61 ^^^ (x >>> 6)
    k := k512, iv := iv512 }

/-- `Ch` (R206). -/
def shaCh {w : Nat} (x y z : BitVec w) : BitVec w := (x &&& y) ^^^ (~~~x &&& z)

/-- `Maj` (R206). -/
def shaMaj {w : Nat} (x y z : BitVec w) : BitVec w := (x &&& y) ^^^ (x &&& z) ^^^ (y &&& z)

/-- `n` further words of the message schedule before `Wt[t-1], Wt[t-2], …, Wt[0]` (R207). -/
def shaSchedule {w : Nat} (p : ShaParams w) : Nat → List (BitVec w) → List (BitVec w)
  | 0, ws => ws
  | n + 1, ws =>
    shaSchedule p n ((p.sigma1 (ws.getD 1 0) + ws.getD 6 0 + p.sigma0 (ws.getD 14 0) + ws.getD 15 0) :: ws)

/-- One round (R207), for the pair of its round constant and its schedule word. -/
def shaRound {w : Nat} (p : ShaParams w) (v : Hash8 w) (kw : BitVec w × BitVec w) : Hash8 w :=
  let t1 := v.h + p.bigSigma1 v.e + shaCh v.e v.f v.g + kw.1 + kw.2
  let t2 := p.bigSigma0 v.a + shaMaj v.a v.b v.c
  ⟨t1 + t2, v.a, v.b, v.c, v.d + t1, v.e, v.f, v.g⟩

/-- The sixteen message words of a block, big-endian (R207, R209). -/
def shaMessage {w : Nat} (_p : ShaParams w) (block : Bits) : List (BitVec w) :=
  (List.range 16).map fun t => bitsToBv w (slice block (w * t) (w * t + w))

/-- `compress(h, block)` (R207). -/
def shaCompress {w : Nat} (p : ShaParams w) (h : Hash8 w) (block : Bits) : Hash8 w :=
  let ws := (shaSchedule p (p.k.length - 16) (shaMessage p block).reverse).reverse
  let v := (p.k.zip ws).foldl (shaRound p) h
  ⟨h.a + v.a, h.b + v.b, h.c + v.c, h.d + v.d, h.e + v.e, h.f + v.f, h.g + v.g, h.h + v.h⟩

/-- A reset context (R212). -/
def shaFresh {w : Nat} (p : ShaParams w) : ShaState w := { h := p.iv, buf := [], len := 0 }

/-- `update` (R210) where the length counter allows it: every full block is compressed, the rest stays pending. -/
def shaAbsorb {w : Nat} (p : ShaParams w) (c : ShaState w) (data : Bits) : ShaState w :=
  let x := c.buf ++ data
  let full := x.length / p.bs * p.bs
  { h := (splitEvery p.bs (x.take full)).foldl (shaCompress p) c.h
    buf := x.drop full
    len := c.len + data.length }

/-- `update` (R210, R211): refused with `InvalidParameter` when the counter would reach `2^64`. -/
def shaUpdate {w : Nat} (p : ShaParams w) (c : ShaState w) (data : Bits) : Except Err (ShaState w) :=
  if 2 ^ 64 ≤ c.len + data.length then .error .invalidParameter else .ok (shaAbsorb p c data)

/-- The message length as the length field takes it (R208): below `2^64` the length itself (R211); from there on, which
no slot reaches, a free value (log entry 18). -/
def shaLength (len : Nat) : Nat := if len < 2 ^ 64 then len else Config.hashLengthBeyond len

/-- The padded pending string: a 1 bit, zeros up to the boundary, the message's bit length big-endian (R208). -/
def shaPadded {w : Nat} (p : ShaParams w) (c : ShaState w) : Bits :=
  let z := (p.bs - (c.buf.length + 1 + p.lw) % p.bs) % p.bs
  c.buf ++ true :: zeros z ++ natToBits p.lw (shaLength c.len)

/-- The bit string of eight words, `h[0]` first (R208, R209). -/
def Hash8.toBits {w : Nat} (h : Hash8 w) : Bits :=
  bvToBits h.a ++ bvToBits h.b ++ bvToBits h.c ++ bvToBits h.d ++ bvToBits h.e ++ bvToBits h.f ++ bvToBits h.g ++
    bvToBits h.h

/-- The digest of a context (R208). -/
def shaFinish {w : Nat} (p : ShaParams w) (c : ShaState w) : Bits :=
  ((splitEvery p.bs (shaPadded p c)).foldl (shaCompress p) c.h).toBits

/-- The digest of a message: a context reset, updated once, finalised (R215). -/
def shaDigest {w : Nat} (p : ShaParams w) (m : Bits) : Bits := shaFinish p (shaAbsorb p (shaFresh p) m)

/-- `Hash_alg(m)` (R215). -/
def hashOf (alg : HashAlg) (m : Bits) : Bits :=
  match alg with
  | .sha256 => shaDigest sha256P m
  | .sha512 => shaDigest sha512P m

/-- Block size of a hash in bits (R200). -/
def hashBlockBits : HashAlg → Nat
  | .sha256 => 512
  | .sha512 => 1024

/-- Digest length of a hash in bits (R200). -/
def hashDigestBits : HashAlg → Nat
  | .sha256 => 256
  | .sha512 => 512

/-- A slot holding a reset context of the algorithm (R212). -/
def hashFresh : HashAlg → HashCtx
  | .sha256 => .sha256 (shaFresh sha256P)
  | .sha512 => .sha512 (shaFresh sha512P)

/-- The algorithm of a full slot (R26). -/
def HashCtx.alg : HashCtx → HashAlg
  | .sha256 _ => .sha256
  | .sha512 _ => .sha512

/-- `update` on a slot (R210, R213). -/
def hashUpdate (c : HashCtx) (data : Bits) : Except Err HashCtx :=
  match c with
  | .sha256 x => (shaUpdate sha256P x data).map .sha256
  | .sha512 x => (shaUpdate sha512P x data).map .sha512

/-- The digest of a slot (R214). -/
def hashFinish : HashCtx → Bits
  | .sha256 x => shaFinish sha256P x
  | .sha512 x => shaFinish sha512P x

/-- 64-bit addition on halves with explicit carry (R216): the pair of high and low 32-bit halves. -/
def add64Halves (xh xl yh yl : Word) : Word × Word :=
  let l := xl + yl
  let carry : Word := if l < xl then 1 else 0
  (xh + yh + carry, l)

/-- 64-bit rotation to the right on halves (R216), by `n`, `0 < n < 64`. -/
def rotr64Halves (xh xl : Word) (n : Nat) : Word × Word :=
  if n < 32 then ((xh >>> n) ||| (xl <<< (32 - n)), (xl >>> n) ||| (xh <<< (32 - n)))
  else if n = 32 then (xl, xh)
  else ((xl >>> (n - 32)) ||| (xh <<< (64 - n)), (xh >>> (n - 32)) ||| (xl <<< (64 - n)))

/-- `HASH.RESET` (R212). -/
def execHashReset (a : HashIx) (alg : HashAlg) (s : State) : Out := finish 0x30 (s.setHash a (hashFresh alg))

/-- `HASH.UPDATE` (R213); on an error the slot is unchanged. -/
def execHashUpdate (a : HashIx) (b : BufIx) (s : State) : Out :=
  match s.hashAt a with
  | none => raise 0x31 .invalidState s
  | some c =>
    match hashUpdate c (s.bufAt b) with
    | .error e => raise 0x31 e s
    | .ok c' => finish 0x31 (s.setHash a c')

/-- `HASH.FINAL` (R214): the digest, and the slot reset for reuse under its algorithm. -/
def execHashFinal (a : BufIx) (e : HashIx) (s : State) : Out :=
  match s.hashAt e with
  | none => raiseTo 0x32 a .invalidState s
  | some c => finish 0x32 ((s.setBuf a (hashFinish c)).setHash e (hashFresh c.alg))

/-- `HASH.DIGEST` (R215). -/
def execHashDigest (a b : BufIx) (alg : HashAlg) (s : State) : Out :=
  resultToBuf 0x33 a (.ok (hashOf alg (s.bufAt b))) s

end Sys2Proof.Machine
end

