-- ==== Sys2Proof/Machine/HmacPbkdf2.lean ====
section
/-! DEFINITION. HMAC, PBKDF2, and the resumable PBKDF2 engine (43_hmac_pbkdf2.md R230 to R247). -/

namespace Sys2Proof.Machine

/-- A byte repeated over one hash block (R230). -/
def padBlock (alg : HashAlg) (b : Byte) : Bits := (List.replicate (hashBlockBits alg / 8) (bvToBits b)).flatten

/-- The key of one hash block: hashed when it is longer, zero-extended on the right otherwise (R230, R231). -/
def hmacKey (alg : HashAlg) (key : Bits) : Bits :=
  padr (if hashBlockBits alg < key.length then hashOf alg key else key) (hashBlockBits alg)

/-- `HMAC_alg(key, data)` (R230). -/
def hmacOf (alg : HashAlg) (key data : Bits) : Bits :=
  let k := hmacKey alg key
  hashOf alg (xorBits k (padBlock alg 0x5c) ++ hashOf alg (xorBits k (padBlock alg 0x36) ++ data))

/-- The PRF applied `n` further times, each result xored into the accumulator (R235). -/
def pbkdf2Rounds (alg : HashAlg) (pw : Bits) : Nat → Bits → Bits → Bits
  | 0, _, acc => acc
  | n + 1, u, acc =>
    let u' := hmacOf alg pw u
    pbkdf2Rounds alg pw n u' (xorBits acc u')

/-- Output block `k` of PBKDF2 (R235, R236); `count = 0` behaves as 1 (R237). -/
def pbkdf2Block (alg : HashAlg) (pw salt : Bits) (count k : Nat) : Bits :=
  let u := hmacOf alg pw (salt ++ natToBits 32 k)
  pbkdf2Rounds alg pw (count - 1) u u

/-- `PBKDF2_alg(password, salt, count, length)` (R235): the blocks `1 .. ceil(length/hlen)`, cut to `length` bits. -/
def pbkdf2Of (alg : HashAlg) (pw salt : Bits) (count length : Nat) : Bits :=
  ((List.range' 1 (ceilDiv length (hashDigestBits alg))).flatMap (pbkdf2Block alg pw salt count)).take length

/-- `count` and `length` as PBKDF2 reads them: signed, neither negative, and a length that fits (R237, R238). -/
def pbkdf2Params (count length : Int) : Except Err (Nat × Nat) :=
  if count < 0 ∨ length < 0 then .error .invalidParameter
  else if fitsBuf length.toNat then .ok (count.toNat, length.toNat)
  else .error .bufferOverflow

/-- The PBKDF2 engine at the start of a derivation (R241). -/
def pbkStart (alg : HashAlg) (pw salt : Bits) (count length : Nat) : PbkEngine :=
  { state := if 0 < length then .run else .done, alg := alg, pw := pw, salt := salt, count := count,
    length := length, k := 1, i := 0, last := [], acc := [], out := [] }

/-- One PRF round of the engine, `round()` (R243). -/
def pbkRound (e : PbkEngine) : PbkEngine :=
  let u := if e.i = 0 then hmacOf e.alg e.pw (e.salt ++ natToBits 32 e.k) else hmacOf e.alg e.pw e.last
  let t := if e.i = 0 then u else xorBits e.acc u
  if max e.count 1 ≤ e.i + 1 then
    { e with
      out := e.out ++ t, k := e.k + 1, i := 0, last := [], acc := []
      state := if e.length ≤ (e.out ++ t).length then .done else e.state }
  else { e with i := e.i + 1, last := u, acc := t }

/-- Up to `q` rounds, while the engine runs (R242). -/
def pbkSteps : Nat → PbkEngine → PbkEngine
  | 0, e => e
  | q + 1, e => if e.state = .run then pbkSteps q (pbkRound e) else e

/-- `HMAC` (R232). -/
def execHmac (a b c : BufIx) (alg : HashAlg) (s : State) : Out :=
  resultToBuf 0x40 a (.ok (hmacOf alg (s.bufAt b) (s.bufAt c))) s

/-- `PBKDF2` (R238). -/
def execPbkdf2 (a b c : BufIx) (d e : ScalIx) (alg : HashAlg) (s : State) : Out :=
  resultToBuf 0x41 a
    ((pbkdf2Params (s.signedAt d) (s.signedAt e)).map fun p => pbkdf2Of alg (s.bufAt b) (s.bufAt c) p.1 p.2) s

/-- `PBKDF2.INIT` (R241); on an error the engine is unchanged. -/
def execPbkdf2Init (b c : BufIx) (d e : ScalIx) (alg : HashAlg) (s : State) : Out :=
  match pbkdf2Params (s.signedAt d) (s.signedAt e) with
  | .error x => raise 0x42 x s
  | .ok p => finish 0x42 (s.setPbk (pbkStart alg (s.bufAt b) (s.bufAt c) p.1 p.2))

/-- `PBKDF2.STEP` (R242). -/
def execPbkdf2Step (a b : ScalIx) (s : State) : Out :=
  match s.pbk.state with
  | .idle => raise 0x43 .invalidState s
  | _ =>
    let e := pbkSteps (s.natAt b) s.pbk
    finish 0x43 ((s.setPbk e).setScal a (if e.state = .done then 1 else 0))

/-- `PBKDF2.READ` (R244): the result, once; the engine returns to its reset values. -/
def execPbkdf2Read (a : BufIx) (s : State) : Out :=
  match s.pbk.state with
  | .done => finish 0x44 ((s.setBuf a (slice s.pbk.out 0 s.pbk.length)).setPbk PbkEngine.reset)
  | _ => raiseTo 0x44 a .invalidState s

end Sys2Proof.Machine
end

