-- ==== Sys2Proof/Machine/Legacy.lean ====
section
/-! DEFINITION. The legacy container unit: MD5, CRC-32, RC2, and the legacy pipeline
(48_legacy_rc2_md5_crc32.md R390 to R417). All three primitives are little-endian inside (R392, R397, R404). -/

namespace Sys2Proof.Machine

/-- The running words of MD5 (R391). -/
structure Md5State where
  (a b c d : Word)
deriving DecidableEq, Repr

/-- The initial words (R391). -/
def md5Init : Md5State := ⟨0x67452301, 0xefcdab89, 0x98badcfe, 0x10325476⟩

/-- The additive constants `T[0..63]` (R391). -/
def md5T : List Word := [
  0xd76aa478, 0xe8c7b756, 0x242070db, 0xc1bdceee,
  0xf57c0faf, 0x4787c62a, 0xa8304613, 0xfd469501,
  0x698098d8, 0x8b44f7af, 0xffff5bb1, 0x895cd7be,
  0x6b901122, 0xfd987193, 0xa679438e, 0x49b40821,
  0xf61e2562, 0xc040b340, 0x265e5a51, 0xe9b6c7aa,
  0xd62f105d, 0x02441453, 0xd8a1e681, 0xe7d3fbc8,
  0x21e1cde6, 0xc33707d6, 0xf4d50d87, 0x455a14ed,
  0xa9e3e905, 0xfcefa3f8, 0x676f02d9, 0x8d2a4c8a,
  0xfffa3942, 0x8771f681, 0x6d9d6122, 0xfde5380c,
  0xa4beea44, 0x4bdecfa9, 0xf6bb4b60, 0xbebfbc70,
  0x289b7ec6, 0xeaa127fa, 0xd4ef3085, 0x04881d05,
  0xd9d4d039, 0xe6db99e5, 0x1fa27cf8, 0xc4ac5665,
  0xf4292244, 0x432aff97, 0xab9423a7, 0xfc93a039,
  0x655b59c3, 0x8f0ccc92, 0xffeff47d, 0x85845dd1,
  0x6fa87e4f, 0xfe2ce6e0, 0xa3014314, 0x4e0811a1,
  0xf7537e82, 0xbd3af235, 0x2ad7d2bb, 0xeb86d391
  ]

/-- The rotation amount `s[i]` (R391). -/
def md5Shift (i : Nat) : Nat :=
  ((if i < 16 then [7, 12, 17, 22] else if i < 32 then [5, 9, 14, 20] else if i < 48 then [4, 11, 16, 23]
    else [6, 10, 15, 21]) : List Nat).getD (i % 4) 0

/-- The function `f` of step `i` (R393). -/
def md5F (i : Nat) (b c d : Word) : Word :=
  if i < 16 then (b &&& c) ||| (~~~b &&& d)
  else if i < 32 then (d &&& b) ||| (~~~d &&& c)
  else if i < 48 then b ^^^ c ^^^ d
  else c ^^^ (b ||| ~~~d)

/-- The message word `g` step `i` takes (R393). -/
def md5G (i : Nat) : Nat :=
  if i < 16 then i else if i < 32 then (5 * i + 1) % 16 else if i < 48 then (3 * i + 5) % 16 else 7 * i % 16

/-- One step (R393), with the message words `x`. -/
def md5Step (x : List Word) (s : Md5State) (i : Nat) : Md5State :=
  let t := s.a + md5F i s.b s.c s.d + md5T.getD i 0 + x.getD (md5G i) 0
  ⟨s.d, s.b + t.rotateLeft (md5Shift i), s.b, s.c⟩

/-- The four bytes of a word, least significant first (R392, R393). -/
def le32 (v : Word) : List Byte :=
  [v.extractLsb' 0 8, v.extractLsb' 8 8, v.extractLsb' 16 8, v.extractLsb' 24 8]

/-- The eight bytes of a number modulo `2^64`, least significant first (R393). -/
def le64 (v : Nat) : List Byte := (List.range 8).map fun i => BitVec.ofNat 8 (v >>> (8 * i))

/-- A list cut into pieces of `n` elements, the last possibly shorter; the first argument bounds the count. -/
def chunksOf {α : Type} (n : Nat) : Nat → List α → List (List α)
  | 0, _ => []
  | k + 1, l => if l.isEmpty then [] else l.take n :: chunksOf n k (l.drop n)

/-- Bytes, least significant first, as a word (R392). -/
def leWord (l : List Byte) : Word := l.foldr (fun b acc => (acc <<< 8) ||| b.setWidth 32) 0

/-- The sixteen words of a 64-byte block (R392). -/
def md5Words (block : List Byte) : List Word := (chunksOf 4 block.length block).map leWord

/-- The running words after one block (R393). -/
def md5Compress (st : Md5State) (block : List Byte) : Md5State :=
  let r := (List.range 64).foldl (md5Step (md5Words block)) st
  ⟨st.a + r.a, st.b + r.b, st.c + r.c, st.d + r.d⟩

/-- The padded message (R393): `0x80`, `(55 - n) mod 64` zeros, the bit length. -/
def md5Padded (m : List Byte) : List Byte :=
  m ++ 0x80 :: List.replicate ((119 - m.length % 64) % 64) 0 ++ le64 (8 * m.length)

/-- `MD5(m)` (R393). -/
def md5 (m : List Byte) : List Byte :=
  let p := md5Padded m
  let st := (chunksOf 64 p.length p).foldl md5Compress md5Init
  le32 st.a ++ le32 st.b ++ le32 st.c ++ le32 st.d

/-- `shift1` (R396). -/
def crcShift1 (c : Word) : Word := if c.getLsbD 0 then (c >>> 1) ^^^ 0xEDB88320 else c >>> 1

/-- `shift8` (R396). -/
def crcShift8 (c : Word) : Word :=
  crcShift1 (crcShift1 (crcShift1 (crcShift1 (crcShift1 (crcShift1 (crcShift1 (crcShift1 c)))))))

/-- One byte into the register (R397). -/
def crcByte (c : Word) (x : Byte) : Word := crcShift8 (c ^^^ x.setWidth 32)

/-- `CRC32(m)` (R397). -/
def crc32 (m : List Byte) : Word := m.foldl crcByte 0xFFFFFFFF ^^^ 0xFFFFFFFF

/-- `CRCTAB[i]` (R396). -/
def crcTab (i : Byte) : Word := crcShift8 (i.setWidth 32)

/-- One byte into the register by the table (R397): the same function as `crcByte`. -/
def crcByteTable (c : Word) (x : Byte) : Word :=
  let y := c ^^^ x.setWidth 32
  crcTab (y.extractLsb' 0 8) ^^^ (y >>> 8)

/-- The legacy check value (R410): the upper sixteen bits of the CRC as four upper-case hexadecimal characters. -/
def legacyCheck (m : List Byte) : List Byte :=
  let c := (crc32 m).toNat
  [hexUpper (c >>> 28), hexUpper ((c >>> 24) % 16), hexUpper ((c >>> 20) % 16), hexUpper ((c >>> 16) % 16)]

/-- The rows of `PITABLE` (R400). -/
def piRows : List Nat := [
  0xd978f9c419ddb5ed28e9fd794aa0d89d,
  0xc67e37832b76538e624c6488448bfba2,
  0x179a59f587b34f1361456d8d09817d32,
  0xbd8f40eb86b77b0bf09521225c6b4e82,
  0x54d66593ce60b21c7356c014a78cf1dc,
  0x1275ca1f3bbee4d1423dd430a33cb626,
  0x6fbf0eda4669075727f21d9bbc944303,
  0xf811c7f690ef3ee706c3d52fc8661ed7,
  0x08e8eade8052eef784aa72ac354d6a2a,
  0x961ad2715a1549744b9fd05e0418a4ec,
  0xc2e0416e0f51cbcc2491af50a1f47039,
  0x997c3a8523b8b47afc02365b25559731,
  0x2d5dfa98e38a92ae05df2910676cbac9,
  0xd300e6cfe19ea82c6316013f58e289a9,
  0x0d38341bab33ffb0bb480c5fb9b1cd2e,
  0xc5f3db47e5a59c770aa62068fe7fc1ad
  ]

/-- `PITABLE` (R400): row the high nibble of `x`, column the low. -/
def piTable (x : Byte) : Byte :=
  BitVec.ofNat 8 (piRows.getD (x.toNat / 16) 0 >>> (8 * (15 - x.toNat % 16)))

/-- The first pass of the key expansion (R401): `n` further bytes before the bytes `L[i-1], L[i-2], …, L[0]`, for a key
of `t` bytes. -/
def rc2First (t : Nat) : Nat → List Byte → List Byte
  | 0, rev => rev
  | n + 1, rev => rc2First t n (piTable (rev.getD 0 0 + rev.getD (t - 1) 0) :: rev)

/-- The second pass (R401): `n` further bytes before the bytes `L[i+1], L[i+2], …, L[127]`. -/
def rc2Second (t8 : Nat) : Nat → List Byte → List Byte
  | 0, suf => suf
  | n + 1, suf => rc2Second t8 n (piTable (suf.getD 0 0 ^^^ suf.getD (t8 - 1) 0) :: suf)

/-- `TM`, the mask of the reduced key's first byte (R401). -/
def rc2TM (t1 : Nat) : Byte := BitVec.ofNat 8 (255 % 2 ^ (8 + t1 - 8 * ceilDiv t1 8))

/-- The table `L[0..127]` of a key and an effective length of `t1` bits (R401). -/
def rc2Bytes (key : List Byte) (t1 : Nat) : List Byte :=
  let t8 := ceilDiv t1 8
  let l := (rc2First key.length (128 - key.length) key.reverse).reverse
  rc2Second t8 (128 - t8) (piTable (l.getD (128 - t8) 0 &&& rc2TM t1) :: l.drop (129 - t8))

/-- The key table `K[0..63]` (R401, R402). -/
def rc2Table (key : List Byte) (t1 : Nat) : Rc2Table :=
  let l := rc2Bytes key t1
  Vector.ofFn fun i => l.getD (2 * i.val + 1) 0 ++ l.getD (2 * i.val) 0

/-- The four 16-bit words of a block, `R[0..3]` (R404). -/
abbrev Rc2Block := Vector (BitVec 16) 4

/-- The words of a block of 64 bits, little-endian (R404). -/
def rc2Load (x : Bits) : Rc2Block := Vector.ofFn fun i => byteAt x (2 * i.val + 1) ++ byteAt x (2 * i.val)

/-- The block of four words (R404). -/
def rc2Store (r : Rc2Block) : Bits :=
  r.toList.flatMap fun w => bvToBits (w.extractLsb' 0 8) ++ bvToBits (w.extractLsb' 8 8)

/-- One step on a block (R405): mixing word `i` with key word `j`, or mashing word `i`. -/
inductive Rc2Step where
  | mix (i : Fin 4) (j : Fin 64)
  | mash (i : Fin 4)
deriving DecidableEq, Repr

/-- The rotation amounts `s[0..3]` (R405). -/
def rc2Shift (i : Fin 4) : Nat := ([1, 2, 3, 5] : List Nat).getD i.val 0

/-- What mixing adds to word `i` besides the key word: a function of the other three words (R405). -/
def rc2Blend (r : Rc2Block) (i : Fin 4) : BitVec 16 :=
  (r.get (i - 1) &&& r.get (i - 2)) + (~~~(r.get (i - 1)) &&& r.get (i - 3))

/-- The key word mashing adds to word `i` (R405). -/
def rc2MashKey (k : Rc2Table) (r : Rc2Block) (i : Fin 4) : BitVec 16 :=
  k.get ⟨(r.get (i - 1)).toNat % 64, Nat.mod_lt _ (by decide)⟩

/-- One step of encryption: `mix` or `mash` (R405). -/
def rc2Do (k : Rc2Table) (r : Rc2Block) : Rc2Step → Rc2Block
  | .mix i j => r.set i.val ((r.get i + k.get j + rc2Blend r i).rotateLeft (rc2Shift i)) i.isLt
  | .mash i => r.set i.val (r.get i + rc2MashKey k r i) i.isLt

/-- One step of decryption: `rmix` or `rmash` (R405). -/
def rc2Undo (k : Rc2Table) (r : Rc2Block) : Rc2Step → Rc2Block
  | .mix i j => r.set i.val ((r.get i).rotateRight (rc2Shift i) - k.get j - rc2Blend r i) i.isLt
  | .mash i => r.set i.val (r.get i - rc2MashKey k r i) i.isLt

/-- Mixing round `n`, which uses the key words `4n .. 4n+3` (R405). -/
def rc2MixRound (n : Fin 16) : List Rc2Step :=
  [.mix 0 ⟨4 * n.val, by omega⟩, .mix 1 ⟨4 * n.val + 1, by omega⟩, .mix 2 ⟨4 * n.val + 2, by omega⟩,
    .mix 3 ⟨4 * n.val + 3, by omega⟩]

/-- A mashing round (R405). -/
def rc2MashRound : List Rc2Step := [.mash 0, .mash 1, .mash 2, .mash 3]

/-- The steps of encryption: five mixing rounds, a mashing round, six, a mashing round, five (R406). -/
def rc2Steps : List Rc2Step :=
  ([0, 1, 2, 3, 4] : List (Fin 16)).flatMap rc2MixRound ++ rc2MashRound ++
    ([5, 6, 7, 8, 9, 10] : List (Fin 16)).flatMap rc2MixRound ++ rc2MashRound ++
    ([11, 12, 13, 14, 15] : List (Fin 16)).flatMap rc2MixRound

/-- `RC2E` on words (R406). -/
def rc2Encrypt (k : Rc2Table) (r : Rc2Block) : Rc2Block := rc2Steps.foldl (rc2Do k) r

/-- `RC2D` on words: the steps undone in reversed order, key word 63 first (R406). -/
def rc2Decrypt (k : Rc2Table) (r : Rc2Block) : Rc2Block := rc2Steps.reverse.foldl (rc2Undo k) r

/-- `RC2E(K, block)` (R404, R406). -/
def rc2E (k : Rc2Table) (x : Bits) : Bits := rc2Store (rc2Encrypt k (rc2Load x))

/-- `RC2D(K, block)` (R404, R406). -/
def rc2D (k : Rc2Table) (x : Bits) : Bits := rc2Store (rc2Decrypt k (rc2Load x))

/-- The transient key table of the legacy pipeline: the MD5 digest of the passphrase, 64 effective bits (R411, R413). -/
def legacyTable (pw : Bits) : Rc2Table := rc2Table (md5 (bytesOf pw)) 64

/-- A byte string with all its trailing zero bytes removed (R411). -/
def stripNul (l : List Byte) : List Byte := (l.reverse.dropWhile fun b => b == 0).reverse

/-- `legacy_decrypt(pw, blob)` (R411): each block on its own; every failure is `BadPassword`. -/
def legacyDecrypt (pw blob : Bits) : Except Err Bits :=
  match b64DecodeBytes false (bytesOf blob) with
  | none => .error .badPassword
  | some d =>
    if d.length = 0 ∨ d.length / 8 % 8 ≠ 0 then .error .badPassword
    else
      let b := bytesOf ((splitEvery 64 d).flatMap (rc2D (legacyTable pw)))
      if b.take 4 = legacyCheck (b.drop 4) then .ok (ofBytes (stripNul (b.drop 4))) else .error .badPassword

/-- The plaintext with zero bytes up to a block boundary, the check value's four bytes counted in (R413). -/
def legacyBody (pt : List Byte) : List Byte := pt ++ List.replicate ((8 - (4 + pt.length) % 8) % 8) 0

/-- The bytes the legacy pipeline enciphers (R413). -/
def legacyPlain (pt : List Byte) : List Byte := legacyCheck (legacyBody pt) ++ legacyBody pt

/-- `legacy_encrypt(pw, pt)` (R413). -/
def legacyEncrypt (pw pt : Bits) : Except Err Bits :=
  let ct := (splitEvery 64 (ofBytes (legacyPlain (bytesOf pt)))).flatMap (rc2E (legacyTable pw))
  capacity (b64TextBits false ct.length) (.ok (ofBytes (b64EncodeBytes false false ct)))

/-- Both operands are whole bytes (R412, R414, R432, R438). -/
def bytesOperands (pw x : Bits) (r : Except Err Bits) : Except Err Bits :=
  if pw.length % 8 ≠ 0 ∨ x.length % 8 ≠ 0 then .error .invalidParameter else r

/-- `MD5` (R394). -/
def execMd5 (a b : BufIx) (s : State) : Out :=
  resultToBuf 0x80 a
    (if (s.bufAt b).length % 8 ≠ 0 then .error .invalidParameter else .ok (ofBytes (md5 (bytesOf (s.bufAt b))))) s

/-- `CRC32` (R398). -/
def execCrc32 (a : ScalIx) (b : BufIx) (s : State) : Out :=
  resultToScal 0x81 a
    (if (s.bufAt b).length % 8 ≠ 0 then .error .invalidParameter else .ok (crc32 (bytesOf (s.bufAt b)))) s

/-- `RC2.KEY` (R403); on an error `RK` is unchanged. -/
def execRc2Key (b : BufIx) (c : ScalIx) (s : State) : Out :=
  let key := s.bufAt b
  if key.length % 8 ≠ 0 ∨ key.length = 0 ∨ 1024 < key.length then raise 0x82 .invalidKeySize s
  else if s.natAt c < 1 ∨ 1024 < s.natAt c then raise 0x82 .invalidParameter s
  else finish 0x82 (s.setRk (rc2Table (bytesOf key) (s.natAt c)))

/-- A block command of RC2 (R407, R408): a full `RK`, then a block of exactly 64 bits. -/
def rc2OneBlock (rk : Option Rc2Table) (f : Rc2Table → Bits → Bits) (x : Bits) : Except Err Bits :=
  match rk with
  | none => .error .invalidState
  | some k => if x.length ≠ 64 then .error .invalidBlockSize else .ok (f k x)

/-- `RC2.ENC` (R407). -/
def execRc2Enc (a b : BufIx) (s : State) : Out := resultToBuf 0x83 a (rc2OneBlock s.rk rc2E (s.bufAt b)) s

/-- `RC2.DEC` (R408). -/
def execRc2Dec (a b : BufIx) (s : State) : Out := resultToBuf 0x84 a (rc2OneBlock s.rk rc2D (s.bufAt b)) s

/-- `LEGACY.DEC` (R412). -/
def execLegacyDec (a b c : BufIx) (s : State) : Out :=
  resultToBuf 0x85 a (bytesOperands (s.bufAt b) (s.bufAt c) (legacyDecrypt (s.bufAt b) (s.bufAt c))) s

/-- `LEGACY.ENC` (R414). -/
def execLegacyEnc (a b c : BufIx) (s : State) : Out :=
  resultToBuf 0x86 a (bytesOperands (s.bufAt b) (s.bufAt c) (legacyEncrypt (s.bufAt b) (s.bufAt c))) s

end Sys2Proof.Machine
end

