-- ==== Sys2Proof/Machine/Ocb2Gcm.lean ====
section
/-! DEFINITION. The OCB2 and GCM modes (45_modes_ocb2_gcm.md R290 to R312). -/

namespace Sys2Proof.Machine

/-- The tag lengths of OCB2 and GCM (R290, R301). -/
def isAeadTag (tlen : Nat) : Bool := tlen == 64 || tlen == 96 || tlen == 128

/-- The parameter checks of OCB2, in their order (R290). -/
def ocbChecks (iv : Bits) (tlen : Nat) : Except Err Unit :=
  if iv.length ≠ 128 then .error .invalidIV
  else if !isAeadTag tlen then .error .invalidParameter
  else .ok ()

/-- Doubling in GF(2^128) (R291). -/
def times2 (x : Block) : Block := if x.getMsbD 0 then (x <<< 1) ^^^ 0x87 else x <<< 1

/-- `Δ ⊕ times2(Δ)`. -/
def times3 (x : Block) : Block := x ^^^ times2 x

/-- The bulk of a message, all its blocks but the last (R294): the first `bulkBits` bits. A message that ends on a block
boundary keeps its full last block out of the bulk. -/
def bulkBits (n : Nat) : Nat := 128 * ((n - 1) / 128)

/-- The bulk blocks of a message (R294). -/
def bulkOf (x : Bits) : List Block := (blocks (x.take (bulkBits x.length))).map blockOf

/-- The final block of a message: 1 to 128 bits, none for the empty message (R294). -/
def finalOf (x : Bits) : Bits := x.drop (bulkBits x.length)

/-- One bulk block of the PMAC: the doubled offset and the running sum (R295). -/
def pmacStep (f : Block → Block) (p : Block × Block) (h : Block) : Block × Block :=
  let d := times2 p.1
  (d, p.2 ^^^ f (d ^^^ h))

/-- `PMAC(adata)` of non-empty associated data (R295). -/
def pmac (f : Block → Block) (adata : Bits) : Block :=
  let l := f 0
  let p := (bulkOf adata).foldl (pmacStep f) (l ^^^ times2 (times2 l), 0)
  let h := finalOf adata
  if h.length < 128 then
    f (times2 (times3 (times3 p.1)) ^^^ (p.2 ^^^ blockOf (h ++ [true])))
  else
    f (times2 (times3 p.1) ^^^ (p.2 ^^^ blockOf h))

/-- What a pass over the bulk blocks leaves: the offset after it, the sum of plaintext blocks, the output blocks. -/
structure OcbBulk where
  delta : Block
  sum : Block
  out : List Block
deriving DecidableEq, Repr

/-- The bulk blocks of OCB2 encryption (R296). -/
def ocbBulkEnc (f : Block → Block) (delta sum : Block) : List Block → OcbBulk
  | [] => ⟨delta, sum, []⟩
  | m :: ms =>
    let r := ocbBulkEnc f (times2 delta) (sum ^^^ m) ms
    { r with out := (delta ^^^ f (delta ^^^ m)) :: r.out }

/-- The bulk blocks of OCB2 decryption (R298). -/
def ocbBulkDec (g : Block → Block) (delta sum : Block) : List Block → OcbBulk
  | [] => ⟨delta, sum, []⟩
  | c :: cs =>
    let m := delta ^^^ g (delta ^^^ c)
    let r := ocbBulkDec g (times2 delta) (sum ^^^ m) cs
    { r with out := m :: r.out }

/-- The pad of a final block of `n` bits (R293, R296). -/
def ocbPad (f : Block → Block) (delta : Block) (n : Nat) : Block := f (delta ^^^ BitVec.ofNat 128 n)

/-- The tag block, from the offset of the final block and the whole checksum (R296). -/
def ocbTag (f : Block → Block) (delta sum : Block) (adata : Bits) : Block :=
  let t := f (sum ^^^ times3 delta)
  if 0 < adata.length then t ^^^ pmac f adata else t

/-- OCB2 encryption of a message that has passed the checks (R296). -/
def ocbSeal (k : AesCtx) (pt iv adata : Bits) (tlen : Nat) : Bits :=
  let f := aesEncrypt k
  let r := ocbBulkEnc f (times2 (f (blockOf iv))) 0 (bulkOf pt)
  let last := finalOf pt
  let pad := ocbPad f r.delta last.length
  let c := (bvToBits (blockOf last ^^^ pad)).take last.length
  r.out.flatMap bvToBits ++ c ++
    (bvToBits (ocbTag f r.delta (r.sum ^^^ (blockOf c ^^^ pad)) adata)).take tlen

/-- OCB2 encryption (R297). -/
def ocbEncrypt (k : AesCtx) (pt iv adata : Bits) (tlen : Nat) : Except Err Bits :=
  match ocbChecks iv tlen with
  | .error e => .error e
  | .ok _ => capacity (pt.length + tlen) (.ok (ocbSeal k pt iv adata tlen))

/-- OCB2 decryption (R298). -/
def ocbDecrypt (k : AesCtx) (ct iv adata : Bits) (tlen : Nat) : Except Err Bits :=
  match ocbChecks iv tlen with
  | .error e => .error e
  | .ok _ =>
    if ct.length < tlen then .error .corruptTag
    else
      let body := ct.take (ct.length - tlen)
      let tag := ct.drop (ct.length - tlen)
      let f := aesEncrypt k
      let r := ocbBulkDec (aesDecrypt k) (times2 (f (blockOf iv))) 0 (bulkOf body)
      let last := finalOf body
      let x := ocbPad f r.delta last.length ^^^ blockOf last
      if (bvToBits (ocbTag f r.delta (r.sum ^^^ x) adata)).take tlen = tag then
        .ok (r.out.flatMap bvToBits ++ (bvToBits x).take last.length)
      else .error .corruptTag

/-- The parameter checks of GCM, in their order (R301). -/
def gcmChecks (iv : Bits) (tlen : Nat) : Except Err Unit :=
  if !isAeadTag tlen then .error .invalidParameter
  else if iv.length = 0 then .error .invalidIV
  else .ok ()

/-- One bit of the product (R302): the running sum `Z` and the shifted multiplicand `V`. -/
def gfStep (x : Block) (zv : Block × Block) (i : Nat) : Block × Block :=
  (if x.getMsbD i then zv.1 ^^^ zv.2 else zv.1,
    if zv.2.getLsbD 0 then (zv.2 >>> 1) ^^^ ((0xE1#8) ++ (0#120)) else zv.2 >>> 1)

/-- The product `X • Y` in GF(2^128) (R302). -/
def gfMul (x y : Block) : Block := ((List.range 128).foldl (gfStep x) (0, y)).1

/-- One piece of GHASH (R303). -/
def ghashStep (h : Block) (y : Block) (b : Bits) : Block := gfMul (y ^^^ blockOf b) h

/-- `GHASH_H(Y0, data)` (R303). -/
def ghash (h y0 : Block) (data : Bits) : Block := (blocks data).foldl (ghashStep h) y0

/-- The initial counter block `J0` (R304). -/
def gcmJ0 (h : Block) (iv : Bits) : Block :=
  if iv.length = 96 then blockOf (iv ++ natToBits 32 1)
  else ghash h (ghash h 0 iv) (natToBits 128 iv.length)

/-- `inc32` (R305): only the last 32 bits count. -/
def inc32 (x : Block) : Block := (x.extractLsb' 32 96) ++ (x.extractLsb' 0 32 + 1)

/-- Counter mode after the counter block `ctr` (R307). -/
def gcmCtr (f : Block → Block) : Block → List Bits → Bits
  | _, [] => []
  | ctr, b :: bs => xorBits b (bvToBits (f (inc32 ctr))) ++ gcmCtr f (inc32 ctr) bs

/-- The tag over associated data and ciphertext (R306, R307). -/
def gcmTag (f : Block → Block) (h j0 : Block) (adata c : Bits) (tlen : Nat) : Bits :=
  let s := ghash h (ghash h (ghash h 0 adata) c) (natToBits 64 adata.length ++ natToBits 64 c.length)
  (bvToBits (s ^^^ f j0)).take tlen

/-- GCM encryption (R309). -/
def gcmEncrypt (k : AesCtx) (pt iv adata : Bits) (tlen : Nat) : Except Err Bits :=
  match gcmChecks iv tlen with
  | .error e => .error e
  | .ok _ =>
    let f := aesEncrypt k
    let h := f 0
    let j0 := gcmJ0 h iv
    let y := gcmCtr f j0 (blocks pt)
    capacity (pt.length + tlen) (.ok (y ++ gcmTag f h j0 adata y tlen))

/-- GCM decryption (R310). -/
def gcmDecrypt (k : AesCtx) (ct iv adata : Bits) (tlen : Nat) : Except Err Bits :=
  match gcmChecks iv tlen with
  | .error e => .error e
  | .ok _ =>
    if ct.length < tlen then .error .corruptTag
    else
      let x := ct.take (ct.length - tlen)
      let tag := ct.drop (ct.length - tlen)
      let f := aesEncrypt k
      let h := f 0
      let j0 := gcmJ0 h iv
      if gcmTag f h j0 adata x tlen = tag then .ok (gcmCtr f j0 (blocks x)) else .error .corruptTag

/-- `OCB2.ENC` (R297); the tag length is `16·tl` bits (R102). -/
def execOcb2Enc (a b c d : BufIx) (e : KeyIx) (tl : Nat) (s : State) : Out :=
  resultToBuf 0x54 a (withKey (s.keyAt e) fun k => ocbEncrypt k (s.bufAt b) (s.bufAt c) (s.bufAt d) (16 * tl)) s

/-- `OCB2.DEC` (R298). -/
def execOcb2Dec (a b c d : BufIx) (e : KeyIx) (tl : Nat) (s : State) : Out :=
  resultToBuf 0x55 a (withKey (s.keyAt e) fun k => ocbDecrypt k (s.bufAt b) (s.bufAt c) (s.bufAt d) (16 * tl)) s

/-- `GCM.ENC` (R309). -/
def execGcmEnc (a b c d : BufIx) (e : KeyIx) (tl : Nat) (s : State) : Out :=
  resultToBuf 0x56 a (withKey (s.keyAt e) fun k => gcmEncrypt k (s.bufAt b) (s.bufAt c) (s.bufAt d) (16 * tl)) s

/-- `GCM.DEC` (R310). -/
def execGcmDec (a b c d : BufIx) (e : KeyIx) (tl : Nat) (s : State) : Out :=
  resultToBuf 0x57 a (withKey (s.keyAt e) fun k => gcmDecrypt k (s.bufAt b) (s.bufAt c) (s.bufAt d) (16 * tl)) s

end Sys2Proof.Machine
end

