-- ==== Sys2Proof/Machine/Containers.lean ====
section
/-! DEFINITION. The current container and the format dispatcher (49_containers_dispatch.md R430 to R442). -/

namespace Sys2Proof.Machine

/-- The magic tag `"ENC0"` (R431). -/
def enc0Magic : List Byte := ascii ['E', 'N', 'C', '0']

/-- The fields of a container (R431). -/
structure Enc0 where
  salt : Bits
  saltHmac : Bits
  iv : Bits
  ct : Bits
  signed : Bits
  tag : Bits
deriving DecidableEq, Repr

/-- The state FRAME (R432, R433): the length test, the magic test, the fields; `signed` is every byte before the tag. -/
def enc0Frame (d : Bits) : Option Enc0 :=
  let n := d.length / 8
  if n < 100 ∨ (n - 84) % 16 ≠ 0 then none
  else if slice d 0 32 ≠ ofBytes enc0Magic then none
  else
    some
      { salt := slice d (8 * 4) (8 * 20), saltHmac := slice d (8 * 20) (8 * 36), iv := slice d (8 * 36) (8 * 52)
        ct := slice d (8 * 52) (8 * (n - 32)), signed := slice d 0 (8 * (n - 32))
        tag := slice d (8 * (n - 32)) (8 * n) }

/-- A key of the container: PBKDF2 with `ENC0_ITER` rounds, 128 bits (R432). -/
def enc0Key (pw salt : Bits) : Bits := pbkdf2Of .sha256 pw salt enc0Iter 128

/-- `ENC0.DEC`'s operation on a passphrase and a blob (R432): DECODE, FRAME, KDF_MAC, VERIFY, KDF_ENC, DECRYPT. Every
failure is `BadPassword` (R434). -/
def enc0Decrypt (pw blob : Bits) : Except Err Bits :=
  match b64DecodeBytes false (bytesOf blob) with
  | none => .error .badPassword
  | some d =>
    match enc0Frame d with
    | none => .error .badPassword
    | some c =>
      if hmacOf .sha256 (enc0Key pw c.saltHmac) c.signed ≠ c.tag then .error .badPassword
      else
        match cbcDecrypt (aesContext (enc0Key pw c.salt)) c.ct c.iv [] with
        | .error _ => .error .badPassword
        | .ok pt => .ok pt

/-- The cipher tag of the current container, `"AES"` (R437). -/
def tagAes : List Byte := ascii ['A', 'E', 'S']

/-- The cipher tag of the legacy container, `"RC2"` (R437). -/
def tagRc2 : List Byte := ascii ['R', 'C', '2']

/-- The dispatcher's operation (R438): the tag is looked at before anything else. -/
def dispatchDecrypt (tag pw blob : Bits) : Except Err Bits :=
  if tag = ofBytes tagAes then bytesOperands pw blob (enc0Decrypt pw blob)
  else if tag = ofBytes tagRc2 then bytesOperands pw blob (legacyDecrypt pw blob)
  else .error .unsupportedCipher

/-- `ENC0.DEC` (R432). -/
def execEnc0Dec (a b c : BufIx) (s : State) : Out :=
  resultToBuf 0x90 a (bytesOperands (s.bufAt b) (s.bufAt c) (enc0Decrypt (s.bufAt b) (s.bufAt c))) s

/-- `DISPATCH.DEC` (R438); the scalar `keyLengthHint` is read and ignored. -/
def execDispatchDec (a b c d : BufIx) (_e : ScalIx) (s : State) : Out :=
  resultToBuf 0x91 a (dispatchDecrypt (s.bufAt d) (s.bufAt b) (s.bufAt c)) s

end Sys2Proof.Machine
end

