-- ==== Sys2Proof/Machine/Envelope.lean ====
section
/-! DEFINITION. The envelope unit: validation, key derivation, ENV.DEC and ENV.ENC, and the text form with ENV.PARSE
and ENV.SER (47_envelope.md R360 to R376). -/

namespace Sys2Proof.Machine

/-- The envelope record (R360): the six registers and the four buffers of R23. -/
structure EnvRecord where
  regs : EnvRegs
  adata : Bits
  iv : Bits
  salt : Bits
  ct : Bits
deriving DecidableEq, Repr

/-- The record the machine holds (R360). -/
def State.envRecord (s : State) : EnvRecord :=
  { regs := s.env, adata := s.bufAt adataBuf, iv := s.bufAt ivBuf, salt := s.bufAt saltBuf, ct := s.bufAt ctBuf }

/-- The machine with another record (R373). -/
def State.setEnvRecord (s : State) (r : EnvRecord) : State :=
  ((((s.setEnv r.regs).setBuf adataBuf r.adata).setBuf ivBuf r.iv).setBuf saltBuf r.salt).setBuf ctBuf r.ct

/-- The modes an envelope can name (R362). -/
inductive EnvMode where
  | ccm
  | gcm
  | ocb2
  | cbc
deriving DecidableEq, Repr

/-- The mode of a code (R362). -/
def envMode (v : Word) : Option EnvMode :=
  if v = 0 then some .ccm else if v = 1 then some .gcm else if v = 2 then some .ocb2 else if v = 3 then some .cbc
  else none

/-- `validate(pw, rawkey)`: the nine checks in their order (R363). It answers the mode. -/
def envValidate (r : EnvRecord) (pw : Bits) (rawkey : Bool) : Except Err EnvMode :=
  if r.regs.v ≠ 1 then .error .invalidParameter
  else if r.regs.cipher ≠ 0 then .error .unsupportedCipher
  else
    match envMode r.regs.mode with
    | none => .error .unsupportedMode
    | some mode =>
      if !rawkey && !wholeBytes pw then .error .invalidParameter
      else if !rawkey && decide (r.regs.iter.toNat ≤ 100 ∨ 2 ^ 31 ≤ r.regs.iter.toNat) then .error .invalidParameter
      else if !isAeadTag r.regs.ts.toNat then .error .invalidParameter
      else if !isAesKeyLength r.regs.ks.toNat then .error .invalidParameter
      else if ceilDiv r.iv.length 32 < 2 ∨ 4 < ceilDiv r.iv.length 32 then .error .invalidParameter
      else if rawkey && !isAesKeyLength pw.length then .error .invalidKeySize
      else .ok mode

/-- The cipher key (R364): the password operand itself, or PBKDF2 of it. -/
def envKey (r : EnvRecord) (pw : Bits) (rawkey : Bool) : Bits :=
  if rawkey then pw else pbkdf2Of .sha256 pw r.salt r.regs.iter.toNat r.regs.ks.toNat

/-- The decrypting operation of a mode on the record's ciphertext (R365). -/
def envModeDec (mode : EnvMode) (k : AesCtx) (r : EnvRecord) : Except Err Bits :=
  match mode with
  | .ccm => ccmDecrypt k r.ct r.iv r.adata r.regs.ts.toNat
  | .gcm => gcmDecrypt k r.ct r.iv r.adata r.regs.ts.toNat
  | .ocb2 => ocbDecrypt k r.ct r.iv r.adata r.regs.ts.toNat
  | .cbc => cbcDecrypt k r.ct r.iv r.adata

/-- The encrypting operation of a mode (R367). -/
def envModeEnc (mode : EnvMode) (k : AesCtx) (r : EnvRecord) (pt : Bits) : Except Err Bits :=
  match mode with
  | .ccm => ccmEncrypt k pt r.iv r.adata r.regs.ts.toNat
  | .gcm => gcmEncrypt k pt r.iv r.adata r.regs.ts.toNat
  | .ocb2 => ocbEncrypt k pt r.iv r.adata r.regs.ts.toNat
  | .cbc => cbcEncrypt k pt r.iv r.adata

/-- The plaintext of a record (R365). -/
def envDecrypt (r : EnvRecord) (pw : Bits) (rawkey : Bool) : Except Err Bits :=
  match envValidate r pw rawkey with
  | .error e => .error e
  | .ok mode => envModeDec mode (aesContext (envKey r pw rawkey)) r

/-- The ciphertext of a record and a plaintext (R367). -/
def envEncrypt (r : EnvRecord) (pw : Bits) (rawkey : Bool) (pt : Bits) : Except Err Bits :=
  match envValidate r pw rawkey with
  | .error e => .error e
  | .ok mode => envModeEnc mode (aesContext (envKey r pw rawkey)) r pt

/-- The ten fields of the text form, in the order of R372. -/
inductive EnvName where
  | v
  | iter
  | ks
  | ts
  | mode
  | adata
  | cipher
  | iv
  | salt
  | ct
deriving DecidableEq, Repr

/-- The fields in the order `ENV.SER` writes them (R372). -/
def envNames : List EnvName := [.v, .iter, .ks, .ts, .mode, .adata, .cipher, .iv, .salt, .ct]

/-- The text name of a field (R371). -/
def EnvName.text : EnvName → List Byte
  | .v => ascii ['v']
  | .iter => ascii ['i', 't', 'e', 'r']
  | .ks => ascii ['k', 's']
  | .ts => ascii ['t', 's']
  | .mode => ascii ['m', 'o', 'd', 'e']
  | .adata => ascii ['a', 'd', 'a', 't', 'a']
  | .cipher => ascii ['c', 'i', 'p', 'h', 'e', 'r']
  | .iv => ascii ['i', 'v']
  | .salt => ascii ['s', 'a', 'l', 't']
  | .ct => ascii ['c', 't']

/-- The field of a text name, compared exactly (R371). -/
def envNameOf (t : List Byte) : Option EnvName := envNames.find? fun n => n.text == t

/-- The text name of a mode (R371). -/
def EnvMode.text : EnvMode → List Byte
  | .ccm => ascii ['c', 'c', 'm']
  | .gcm => ascii ['g', 'c', 'm']
  | .ocb2 => ascii ['o', 'c', 'b', '2']
  | .cbc => ascii ['c', 'b', 'c']

/-- The code of a mode (R362). -/
def EnvMode.code : EnvMode → Word
  | .ccm => 0
  | .gcm => 1
  | .ocb2 => 2
  | .cbc => 3

/-- The register value a mode name parses to: its code, or `0xFFFFFFFF` (R373). -/
def envModeCode (t : List Byte) : Word :=
  match ([.ccm, .gcm, .ocb2, .cbc] : List EnvMode).find? fun m => m.text == t with
  | some m => m.code
  | none => 0xFFFFFFFF

/-- The one cipher name (R371). -/
def aesText : List Byte := ascii ['a', 'e', 's']

/-- The register value a cipher name parses to (R373). -/
def envCipherCode (t : List Byte) : Word := if t = aesText then 0 else 0xFFFFFFFF

/-- `digit` of the grammar (R370). -/
def isDigit (c : Byte) : Bool := decide (0x30 ≤ c.toNat ∧ c.toNat ≤ 0x39)

/-- `alnum` of the grammar (R370). -/
def isAlnum (c : Byte) : Bool :=
  isDigit c || decide (0x61 ≤ c.toNat ∧ c.toNat ≤ 0x7A) || decide (0x41 ≤ c.toNat ∧ c.toNat ≤ 0x5A)

/-- `schar` of the grammar (R370). -/
def isSchar (c : Byte) : Bool := isAlnum c || (ascii ['+', '/', '%', '*', '_', '.', '@', '=', '-']).contains c

/-- A `value` of the grammar (R370). -/
inductive EnvValue where
  | integer (n : Nat)
  | string (chars : List Byte)
  | boolean (b : Bool)
deriving DecidableEq, Repr

/-- The decimal value of digits (R373). -/
def decimalValue (t : List Byte) : Nat := t.foldl (fun acc c => 10 * acc + (c.toNat - 0x30)) 0

/-- The text between two copies of the quote `q`, when that is what `t` is and all of it is of the class `ok`. -/
def quoted (q : Byte) (ok : Byte → Bool) (t : List Byte) : Option (List Byte) :=
  match t with
  | [] => none
  | c :: rest =>
    if c = q ∧ 1 ≤ rest.length ∧ rest.getLast? = some q ∧ rest.dropLast.all ok then some rest.dropLast else none

/-- `alnum+` (R370). -/
def bareName (t : List Byte) : Option (List Byte) := if 1 ≤ t.length ∧ t.all isAlnum then some t else none

/-- `name` of the grammar, without its quotes (R370). -/
def parseName (t : List Byte) : Option (List Byte) :=
  match bareName t with
  | some n => some n
  | none =>
    match quoted 0x22 isAlnum t with
    | some n => bareName n
    | none =>
      match quoted 0x27 isAlnum t with
      | some n => bareName n
      | none => none

/-- `value` of the grammar (R370). -/
def parseValue (t : List Byte) : Option EnvValue :=
  if 1 ≤ t.length ∧ t.all isDigit then some (.integer (decimalValue t))
  else if t = ascii ['t', 'r', 'u', 'e'] then some (.boolean true)
  else if t = ascii ['f', 'a', 'l', 's', 'e'] then some (.boolean false)
  else (quoted 0x22 isSchar t).map .string

/-- Text cut at every occurrence of a separator. -/
def splitOnByte (sep : Byte) : List Byte → List (List Byte)
  | [] => [[]]
  | c :: cs =>
    if c = sep then [] :: splitOnByte sep cs
    else
      match splitOnByte sep cs with
      | [] => [[c]]
      | t :: ts => (c :: t) :: ts

/-- `pair` of the grammar (R370); no name and no value holds a colon. -/
def parsePair (t : List Byte) : Option (List Byte × EnvValue) :=
  match splitOnByte 0x3A t with
  | [n, v] =>
    match parseName n, parseValue v with
    | some n', some v' => some (n', v')
    | _, _ => none
  | _ => none

/-- `envelope` of the grammar (R370); no pair holds a comma. -/
def parsePairs (t : List Byte) : Option (List (List Byte × EnvValue)) :=
  match t with
  | [] => none
  | c :: rest =>
    if c = 0x7B ∧ rest.getLast? = some 0x7D then decodeAll parsePair (splitOnByte 0x2C rest.dropLast) else none

/-- The defaults of the record (R360). -/
def EnvRecord.defaults : EnvRecord := { regs := EnvRegs.reset, adata := [], iv := [], salt := [], ct := [] }

/-- An integer for a register of the record (R373). -/
def envInteger (v : EnvValue) : Except Err Word :=
  match v with
  | .integer n => if n < 2 ^ 32 then .ok (BitVec.ofNat 32 n) else .error .invalidEnvelope
  | _ => .error .invalidEnvelope

/-- The characters of a string value (R373). -/
def envChars (v : EnvValue) : Except Err (List Byte) :=
  match v with
  | .string t => .ok t
  | _ => .error .invalidEnvelope

/-- The bits of a base64 string value (R373). -/
def envBinary (v : EnvValue) : Except Err Bits :=
  match v with
  | .string t =>
    match b64DecodeBytes false t with
    | none => .error .invalidEncoding
    | some x => capacity x.length (.ok x)
  | _ => .error .invalidEnvelope

/-- The record with one field taken from a value (R373). -/
def EnvRecord.putValue (r : EnvRecord) (v : EnvValue) : EnvName → Except Err EnvRecord
  | .v => (envInteger v).map fun n => { r with regs := { r.regs with v := n } }
  | .iter => (envInteger v).map fun n => { r with regs := { r.regs with iter := n } }
  | .ks => (envInteger v).map fun n => { r with regs := { r.regs with ks := n } }
  | .ts => (envInteger v).map fun n => { r with regs := { r.regs with ts := n } }
  | .mode => (envChars v).map fun t => { r with regs := { r.regs with mode := envModeCode t } }
  | .cipher => (envChars v).map fun t => { r with regs := { r.regs with cipher := envCipherCode t } }
  | .adata => (envBinary v).map fun x => { r with adata := x }
  | .iv => (envBinary v).map fun x => { r with iv := x }
  | .salt => (envBinary v).map fun x => { r with salt := x }
  | .ct => (envBinary v).map fun x => { r with ct := x }

/-- The pairs of the text taken into the record, left to right (R373): an unknown name and a second occurrence of a name
are format errors; `seen` holds the names that have occurred. -/
def takePairs : List EnvName → EnvRecord → List (List Byte × EnvValue) → Except Err EnvRecord
  | _, r, [] => .ok r
  | seen, r, p :: ps =>
    match envNameOf p.1 with
    | none => .error .invalidEnvelope
    | some n =>
      if seen.contains n then .error .invalidEnvelope
      else
        match r.putValue p.2 n with
        | .error e => .error e
        | .ok r' => takePairs (n :: seen) r' ps

/-- Text to a record (R373). -/
def envParse (t : Bits) : Except Err EnvRecord :=
  if !wholeBytes t then .error .invalidParameter
  else
    let bs := bytesOf t
    if bs.any fun c => decide (0x80 ≤ c.toNat) then .error .invalidEnvelope
    else
      match parsePairs (bs.filter fun c => !isSpace c) with
      | none => .error .invalidEnvelope
      | some ps => takePairs [] EnvRecord.defaults ps

/-- The decimal digits of a number, without leading zeros, at most `fuel` of them (R372). -/
def decimalText : Nat → Nat → List Byte
  | 0, _ => []
  | fuel + 1, n =>
    if n < 10 then [BitVec.ofNat 8 (0x30 + n)] else decimalText fuel (n / 10) ++ [BitVec.ofNat 8 (0x30 + n % 10)]

/-- The decimal text of a register (R372); a 32-bit number has at most ten digits. -/
def wordText (v : Word) : List Byte := decimalText 10 v.toNat

/-- Text in double quotes. -/
def inQuotes (t : List Byte) : List Byte := 0x22 :: (t ++ [0x22])

/-- The text of a binary field (R372). -/
def binaryText (x : Bits) : List Byte := inQuotes (b64EncodeBytes false false x)

/-- The value text of a field (R372). -/
def EnvRecord.valueText (r : EnvRecord) (mode : EnvMode) : EnvName → List Byte
  | .v => wordText r.regs.v
  | .iter => wordText r.regs.iter
  | .ks => wordText r.regs.ks
  | .ts => wordText r.regs.ts
  | .mode => inQuotes mode.text
  | .adata => binaryText r.adata
  | .cipher => inQuotes aesText
  | .iv => binaryText r.iv
  | .salt => binaryText r.salt
  | .ct => binaryText r.ct

/-- One pair of the text (R372). -/
def EnvRecord.pairText (r : EnvRecord) (mode : EnvMode) (n : EnvName) : List Byte :=
  inQuotes n.text ++ 0x3A :: r.valueText mode n

/-- The whole text (R372). -/
def EnvRecord.text (r : EnvRecord) (mode : EnvMode) : List Byte :=
  0x7B :: ((envNames.map (r.pairText mode)).intersperse [0x2C]).flatten ++ [0x7D]

/-- A record to text, with the errors in their order (R372). -/
def envSerialize (r : EnvRecord) : Except Err Bits :=
  if r.regs.cipher ≠ 0 then .error .unsupportedCipher
  else
    match envMode r.regs.mode with
    | none => .error .unsupportedMode
    | some mode =>
      if !(wholeBytes r.adata && wholeBytes r.iv && wholeBytes r.salt && wholeBytes r.ct) then .error .invalidParameter
      else capacity (ofBytes (r.text mode)).length (.ok (ofBytes (r.text mode)))

/-- `ENV.DEC` (R365). -/
def execEnvDec (a b : BufIx) (rawkey : Bool) (s : State) : Out :=
  resultToBuf 0x70 a (envDecrypt s.envRecord (s.bufAt b) rawkey) s

/-- `ENV.ENC` (R367): the ciphertext goes to `B15`, which an error leaves empty. -/
def execEnvEnc (b c : BufIx) (rawkey : Bool) (s : State) : Out :=
  resultToBuf 0x71 ctBuf (envEncrypt s.envRecord (s.bufAt b) rawkey (s.bufAt c)) s

/-- `ENV.PARSE` (R373): on an error the record is unchanged. -/
def execEnvParse (b : BufIx) (s : State) : Out :=
  match envParse (s.bufAt b) with
  | .error e => raise 0x72 e s
  | .ok r => finish 0x72 (s.setEnvRecord r)

/-- `ENV.SER` (R372). -/
def execEnvSer (a : BufIx) (s : State) : Out := resultToBuf 0x73 a (envSerialize s.envRecord) s

end Sys2Proof.Machine
end

