-- ==== Sys2Proof/Machine/Prng.lean ====
section
/-! DEFINITION. The random generator and its commands (46_prng.md R320 to R345). -/

namespace Sys2Proof.Machine

/-- `PARANOIA[level]` in bits of entropy, for the levels `0..10` (R321). -/
def paranoia (level : Nat) : Option Nat :=
  ([0, 48, 64, 96, 128, 192, 256, 384, 512, 768, 1024] : List Nat)[level]?

/-- The threshold of a level field (R323): 15 stands for `CTRL.DEFPARANOIA`; a level above 10 is none. -/
def rngThreshold (level : Nat) (defParanoia : BitVec 4) : Except Err Nat :=
  match paranoia (if level = 15 then defParanoia.toNat else level) with
  | none => .error .invalidParameter
  | some t => .ok t

/-- The answers of the readiness function (R324). -/
inductive Readiness where
  | notReady
  | ready
  | requiresReseed
deriving DecidableEq, Repr

/-- The numeric code of a readiness (R324). -/
def Readiness.code : Readiness → Word
  | .notReady => 0
  | .ready => 1
  | .requiresReseed => 2

/-- `strengthReady(T)` (R324). -/
def strengthReady (p : Prng) (t : Nat) : Bool := decide (0 < p.strength.toNat ∧ t ≤ p.strength.toNat)

/-- `readiness(T)` (R324). -/
def readiness (p : Prng) (now : BitVec 64) (t : Nat) : Readiness :=
  if strengthReady p t then
    if rngBitsPerReseed < p.pool0.entropy.toNat ∧ p.nextReseed.toNat < now.toNat then .requiresReseed else .ready
  else if 0 < p.poolStrength.toNat ∧ t ≤ p.poolStrength.toNat then .requiresReseed
  else .notReady

/-- The number of pools, `npools` (R38). -/
def Prng.npools (p : Prng) : Nat := p.more.length + 1

/-- The pools in order (R38). -/
def Prng.pools (p : Prng) : List Pool := p.pool0 :: p.more

/-- Pool `r` (R38). -/
def Prng.poolAt (p : Prng) (r : Nat) : Option Pool := p.pools[r]?

/-- The generator with pool `r` replaced (R38). -/
def Prng.setPool (p : Prng) (r : Nat) (x : Pool) : Prng :=
  match r with
  | 0 => { p with pool0 := x }
  | k + 1 => { p with more := p.more.set k x }

/-- What adding entropy answers: the new generator, an error, or a fault where the source's pool is none (R325 says it
always is one). -/
inductive RngResult where
  | done (p : Prng)
  | raised (e : Err)
  | stopped (f : Fault)
deriving DecidableEq, Repr

/-- The 192-bit header of an entropy event (R326). -/
def entropyHeader (p : Prng) (now : BitVec 64) (kind n est : Nat) (tag : TagIx) : Bits :=
  natToBits 32 tag.val ++ bvToBits p.eventId ++ natToBits 32 kind ++ natToBits 32 est ++ natToBits 32 now.toNat ++
    natToBits 32 n

/-- The generic add-entropy step (R326), to the pool the source's round-robin index names (R325). The estimate is a
natural number, compared before it is cut to a word (log entry 22). -/
def addEntropy (p : Prng) (now : BitVec 64) (kind : Nat) (body : Bits) (n est : Nat) (tag : TagIx) : RngResult :=
  if 2 ^ 32 ≤ p.poolStrength.toNat + est then .raised .invalidParameter
  else
    let r := p.robin.get tag
    match p.poolAt r with
    | none => .stopped .rngPoolMissing
    | some pool =>
      match shaUpdate sha256P pool.ctx (entropyHeader p now kind n est tag ++ body) with
      | .error e => .raised e
      | .ok ctx =>
        .done
          { p.setPool r { ctx := ctx, entropy := pool.entropy + BitVec.ofNat 32 est } with
            robin := p.robin.set tag.val ((r + 1) % p.npools) tag.isLt
            eventId := p.eventId + 1
            poolStrength := p.poolStrength + BitVec.ofNat 32 est }

/-- `bitlen`: the place of the highest set bit of a word (R328). -/
def bitlen (w : Word) : Nat := if w = 0 then 0 else Nat.log2 w.toNat + 1

/-- The default estimate for words, the sum of their bit lengths (R328). -/
def wordsEstimate (x : Bits) : Nat := ((splitEvery 32 x).map fun q => bitlen (bitsToBv 32 q)).sum

/-- `inc()` on the block counter (R330): the carry goes up from `c0`. -/
def Ctr.inc (c : Ctr) : Ctr :=
  if c.c0 + 1 ≠ 0 then { c with c0 := c.c0 + 1 }
  else if c.c1 + 1 ≠ 0 then { c with c0 := 0, c1 := c.c1 + 1 }
  else if c.c2 + 1 ≠ 0 then { c with c0 := 0, c1 := 0, c2 := c.c2 + 1 }
  else { c0 := 0, c1 := 0, c2 := 0, c3 := c.c3 + 1 }

/-- The cipher input of a counter, its least significant word first (R330). -/
def Ctr.block (c : Ctr) : Block := c.c0 ++ c.c1 ++ c.c2 ++ c.c3

/-- What generation works on: the key, its cipher and the counter. -/
structure Gen where
  key : BitVec 256
  cipher : AesCtx
  ctr : Ctr
deriving DecidableEq, Repr

/-- The AES-256 context of a generator key (R332, R334). -/
def keyCipher (key : BitVec 256) : AesCtx := aesContext (bvToBits key)

/-- `gen4()` (R331): the counter moves first, then four words are made. -/
def gen4 (g : Gen) : Block × Gen :=
  (aesEncrypt g.cipher g.ctr.inc.block, { g with ctr := g.ctr.inc })

/-- `gate()` (R332): a new key from the generator's own output. -/
def gate (g : Gen) : Gen :=
  let x := gen4 g
  let y := gen4 x.2
  let key : BitVec 256 := x.1 ++ y.1
  { y.2 with key := key, cipher := keyCipher key }

/-- The output loop of `randomWords` (R337) for the next `k` blocks, `i` words being out already: a rekey before every
block that starts a new burst. -/
def genBlocks : Nat → Nat → Gen → List Block × Gen
  | 0, _, g => ([], g)
  | k + 1, i, g =>
    let g1 := if 0 < i ∧ i % rngBurstWords = 0 then gate g else g
    let x := gen4 g1
    let rest := genBlocks k (i + 4) x.2
    (x.1 :: rest.1, rest.2)

/-- What a reseed takes from the pools: the digests, the entropy they held, and the pools after it. -/
structure Taken where
  digests : Bits
  entropy : Nat
  pools : List Pool
deriving DecidableEq, Repr

/-- An empty pool (R334). -/
def Pool.fresh : Pool := { ctx := shaFresh sha256P, entropy := 0 }

/-- The loop of a reseed over the pools from number `i` on (R334): each pool is finalised and reset; a non-full reseed
stops after the first pool whose bit of `reseedCount` is set. -/
def takePools (full : Bool) (count : Word) : Nat → List Pool → Taken
  | _, [] => ⟨[], 0, []⟩
  | i, x :: xs =>
    let rest := if full || !count.getLsbD i then takePools full count (i + 1) xs else ⟨[], 0, xs⟩
    ⟨shaFinish sha256P x.ctx ++ rest.digests, x.entropy.toNat + rest.entropy, Pool.fresh :: rest.pools⟩

/-- The data a reseed hashes with the key (R334): the time word, the noise, the digests. -/
def reseedData (next : BitVec 64) (noise digests : Bits) : Bits := natToBits 32 next.toNat ++ noise ++ digests

/-- `reseedFromPools(full)` (R334). -/
def reseed (full : Bool) (now : BitVec 64) (noise : Bits) (p : Prng) : Prng :=
  let next := now + BitVec.ofNat 64 rngMsPerReseed
  let t := takePools full p.reseedCount 0 p.pools
  let grow := p.npools < rngMaxPools ∧ 2 ^ p.npools ≤ p.reseedCount.toNat
  let key : BitVec 256 := bitsToBv 256 (shaDigest sha256P (bvToBits p.key ++ reseedData next noise t.digests))
  { p with
    pool0 := t.pools.headD Pool.fresh
    more := if grow then t.pools.tail ++ [Pool.fresh] else t.pools.tail
    nextReseed := next
    poolStrength := p.poolStrength - BitVec.ofNat 32 t.entropy
    strength := if p.strength.toNat < t.entropy then BitVec.ofNat 32 t.entropy else p.strength
    reseedCount := p.reseedCount + 1
    key := key
    cipher := some (keyCipher key)
    ctr := p.ctr.inc }

/-- The generation part of `randomWords(n, T)` (R337): `n` words, cut from whole blocks, and the closing rekey. -/
def generate (n : Nat) (g : Gen) : Bits × Gen :=
  let r := genBlocks (ceilDiv n 4) 0 g
  ((r.1.flatMap bvToBits).take (32 * n), gate r.2)

/-- The generator after generation (R337). -/
def Prng.withGen (p : Prng) (g : Gen) : Prng := { p with key := g.key, cipher := some g.cipher, ctr := g.ctr }

/-- The generator that `randomWords` generates from: reseeded when that is due (R337). -/
def preparedPrng (p : Prng) (now : BitVec 64) (noise : Bits) (t : Nat) : Prng :=
  if readiness p now t = .requiresReseed then reseed (!strengthReady p t) now noise p else p

/-- `RNG.ADDENT.*`'s end: the new generator, the error, or the fault. -/
def finishEntropy (op : Byte) (r : RngResult) (s : State) : Out :=
  match r with
  | .done p => finish op (s.setRng p)
  | .raised e => raise op e s
  | .stopped f => .fault f

/-- `RNG.ADDENT.N` (R327). -/
def execRngAddentN (b c : ScalIx) (tag : TagIx) (defest : Bool) (s : State) : Out :=
  finishEntropy 0x60
    (addEntropy s.rng s.now 1 (bvToBits (s.scalAt b)) 1 (if defest then 1 else s.natAt c) tag) s

/-- `RNG.ADDENT.W` (R328). -/
def execRngAddentW (b : BufIx) (c : ScalIx) (tag : TagIx) (defest : Bool) (s : State) : Out :=
  let body := s.bufAt b
  if body.length % 32 ≠ 0 then raise 0x61 .invalidParameter s
  else
    finishEntropy 0x61
      (addEntropy s.rng s.now 2 body (body.length / 32) (if defest then wordsEstimate body else s.natAt c) tag) s

/-- `RNG.ADDENT.S` (R329). -/
def execRngAddentS (b : BufIx) (c : ScalIx) (tag : TagIx) (defest : Bool) (s : State) : Out :=
  let body := s.bufAt b
  if body.length % 8 ≠ 0 then raise 0x62 .invalidParameter s
  else
    finishEntropy 0x62
      (addEntropy s.rng s.now 3 body (body.length / 8) (if defest then body.length / 8 else s.natAt c) tag) s

/-- `RNG.ISREADY` (R333). -/
def execRngIsReady (a : ScalIx) (level : Nat) (s : State) : Out :=
  resultToScal 0x63 a ((rngThreshold level s.defParanoia).map fun t => (readiness s.rng s.now t).code) s

/-- `RNG.WORDS` (R338): level, capacity and readiness are checked in this order; on an error the generator is
unchanged. -/
def execRngWords (a : BufIx) (c : ScalIx) (level : Nat) (s : State) : Out :=
  match rngThreshold level s.defParanoia with
  | .error e => raiseTo 0x64 a e s
  | .ok t =>
    if !fitsBuf (32 * s.natAt c) then raiseTo 0x64 a .bufferOverflow s
    else if readiness s.rng s.now t = .notReady then raiseTo 0x64 a .generatorNotSeeded s
    else
      let p := preparedPrng s.rng s.now s.noiseBits t
      match p.cipher with
      | none => .fault .rngCipherMissing
      | some cipher =>
        let r := generate (s.natAt c) { key := p.key, cipher := cipher, ctr := p.ctr }
        finish 0x64 ((s.setBuf a r.1).setRng (p.withGen r.2))

end Sys2Proof.Machine
end

