-- ==== Sys2Proof/Machine/System.lean ====
section
/-! DEFINITION. The system commands (40_bitarray_codecs.md R130, R131). -/

namespace Sys2Proof.Machine

/-- `NOP` (R130): nothing, but it is counted. -/
def execNop (s : State) : Out := finish 0x00 s

/-- `ZEROIZE`'s effect (R131): every piece of state takes its reset value but the generator, `CTRL`, `TIME`, `NOISE`,
`CMD` and the status registers. The host's own fields are no state of the core. -/
def zeroized (s : State) : State :=
  { State.reset with
    rng := s.rng, defParanoia := s.defParanoia, timeLo := s.timeLo, timeHi := s.timeHi, noise := s.noise,
    cmd := s.cmd, status := s.status, err := s.err, errFirst := s.errFirst, cmdCnt := s.cmdCnt,
    hostIn := s.hostIn, hostOut := s.hostOut }

/-- `ZEROIZE` (R131). -/
def execZeroize (s : State) : Out := finish 0x0F (zeroized s)

end Sys2Proof.Machine
end

