-- ==== Sys2Proof/Machine/Dispatch.lean ====
section
/-! DEFINITION. The meaning of each command (30_encoding.md R105): one arm per constructor of `Instr`. -/

namespace Sys2Proof.Machine

/-- What a command does (R100 steps 3 to 6). -/
def exec (i : Instr) (s : State) : Host.Outcome State Fault Refusal :=
  match i with
  | .nop => Sys2Proof.Machine.execNop s
  | .zeroize => Sys2Proof.Machine.execZeroize s
  | .baLen a b => Sys2Proof.Machine.execBaLen a b s
  | .baSlice a b c d => Sys2Proof.Machine.execBaSlice a b c d s
  | .baExtract a b c d => Sys2Proof.Machine.execBaExtract a b c d s
  | .baConcat a b c => Sys2Proof.Machine.execBaConcat a b c s
  | .baClamp a b c => Sys2Proof.Machine.execBaClamp a b c s
  | .baEqual a b c => Sys2Proof.Machine.execBaEqual a b c s
  | .baPartial a b c high => Sys2Proof.Machine.execBaPartial a b c high s
  | .baGetPartial a b => Sys2Proof.Machine.execBaGetPartial a b s
  | .hexDec a b => Sys2Proof.Machine.execHexDec a b s
  | .hexEnc a b => Sys2Proof.Machine.execHexEnc a b s
  | .b64Dec a b url => Sys2Proof.Machine.execB64Dec a b url s
  | .b64Enc a b url nopad => Sys2Proof.Machine.execB64Enc a b url nopad s
  | .aesKey a b => Sys2Proof.Machine.execAesKey a b s
  | .aesEnc a b e => Sys2Proof.Machine.execAesEnc a b e s
  | .aesDec a b e => Sys2Proof.Machine.execAesDec a b e s
  | .hashReset a alg => Sys2Proof.Machine.execHashReset a alg s
  | .hashUpdate a b => Sys2Proof.Machine.execHashUpdate a b s
  | .hashFinal a e => Sys2Proof.Machine.execHashFinal a e s
  | .hashDigest a b alg => Sys2Proof.Machine.execHashDigest a b alg s
  | .hmac a b c alg => Sys2Proof.Machine.execHmac a b c alg s
  | .pbkdf2 a b c d e alg => Sys2Proof.Machine.execPbkdf2 a b c d e alg s
  | .pbkdf2Init b c d e alg => Sys2Proof.Machine.execPbkdf2Init b c d e alg s
  | .pbkdf2Step a b => Sys2Proof.Machine.execPbkdf2Step a b s
  | .pbkdf2Read a => Sys2Proof.Machine.execPbkdf2Read a s
  | .cbcEnc a b c d e => Sys2Proof.Machine.execCbcEnc a b c d e s
  | .cbcDec a b c d e => Sys2Proof.Machine.execCbcDec a b c d e s
  | .ccmEnc a b c d e tl => Sys2Proof.Machine.execCcmEnc a b c d e tl s
  | .ccmDec a b c d e tl => Sys2Proof.Machine.execCcmDec a b c d e tl s
  | .ocb2Enc a b c d e tl => Sys2Proof.Machine.execOcb2Enc a b c d e tl s
  | .ocb2Dec a b c d e tl => Sys2Proof.Machine.execOcb2Dec a b c d e tl s
  | .gcmEnc a b c d e tl => Sys2Proof.Machine.execGcmEnc a b c d e tl s
  | .gcmDec a b c d e tl => Sys2Proof.Machine.execGcmDec a b c d e tl s
  | .rngAddentN b c tag defest => Sys2Proof.Machine.execRngAddentN b c tag defest s
  | .rngAddentW b c tag defest => Sys2Proof.Machine.execRngAddentW b c tag defest s
  | .rngAddentS b c tag defest => Sys2Proof.Machine.execRngAddentS b c tag defest s
  | .rngIsReady a level => Sys2Proof.Machine.execRngIsReady a level s
  | .rngWords a c level => Sys2Proof.Machine.execRngWords a c level s
  | .envDec a b rawkey => Sys2Proof.Machine.execEnvDec a b rawkey s
  | .envEnc b c rawkey => Sys2Proof.Machine.execEnvEnc b c rawkey s
  | .envParse b => Sys2Proof.Machine.execEnvParse b s
  | .envSer a => Sys2Proof.Machine.execEnvSer a s
  | .md5 a b => Sys2Proof.Machine.execMd5 a b s
  | .crc32 a b => Sys2Proof.Machine.execCrc32 a b s
  | .rc2Key b c => Sys2Proof.Machine.execRc2Key b c s
  | .rc2Enc a b => Sys2Proof.Machine.execRc2Enc a b s
  | .rc2Dec a b => Sys2Proof.Machine.execRc2Dec a b s
  | .legacyDec a b c => Sys2Proof.Machine.execLegacyDec a b c s
  | .legacyEnc a b c => Sys2Proof.Machine.execLegacyEnc a b c s
  | .enc0Dec a b c => Sys2Proof.Machine.execEnc0Dec a b c s
  | .dispatchDec a b c d e => Sys2Proof.Machine.execDispatchDec a b c d e s

end Sys2Proof.Machine
end

