-- ==== Sys2Proof/Machine/HostPort.lean ====
section
/-! DEFINITION. The host register space and the buffer port (20_memory.md R70 to R77), the platform's inputs (R35,
R470) and the reset input (R490): everything the outside world can do but executing a command. -/

namespace Sys2Proof.Machine

/-- A register of the envelope record (R34). -/
inductive EnvField where
  | v
  | iter
  | ks
  | ts
  | mode
  | cipher
deriving DecidableEq, Repr

/-- The register an address names (R70). -/
inductive HostReg where
  | cmd
  | status
  | err
  | errFirst
  | cmdCnt
  | ctrl
  | id
  | scal (i : ScalIx)
  | bsel
  | blen
  | bptr
  | bdata
  | pbkState
  | pbkBlk
  | pbkIter
  | env (f : EnvField)
  | timeLo
  | timeHi
  | noise (i : Fin 16)
  | reserved
deriving DecidableEq, Repr

/-- The register at word index `w` of the host register space, address `4 w` (R70); every other address is reserved
(R72). -/
def regAtIndex (w : Nat) : HostReg :=
  if w = 0x00 then .cmd
  else if w = 0x01 then .status
  else if w = 0x02 then .err
  else if w = 0x03 then .errFirst
  else if w = 0x04 then .cmdCnt
  else if w = 0x05 then .ctrl
  else if w = 0x06 then .id
  else if h : 0x08 ≤ w ∧ w < 0x10 then .scal ⟨w - 0x08, by omega⟩
  else if w = 0x10 then .bsel
  else if w = 0x11 then .blen
  else if w = 0x12 then .bptr
  else if w = 0x13 then .bdata
  else if w = 0x14 then .pbkState
  else if w = 0x15 then .pbkBlk
  else if w = 0x16 then .pbkIter
  else if w = 0x18 then .env .v
  else if w = 0x19 then .env .iter
  else if w = 0x1A then .env .ks
  else if w = 0x1B then .env .ts
  else if w = 0x1C then .env .mode
  else if w = 0x1D then .env .cipher
  else if w = 0x20 then .timeLo
  else if w = 0x21 then .timeHi
  else if h : 0x30 ≤ w ∧ w < 0x40 then .noise ⟨w - 0x30, by omega⟩
  else .reserved

/-- The register an access reaches: only an aligned access of 32 bits reaches one, any other has no effect (R71), as
an access to a reserved address has none (R72). `size` is in bytes. -/
def hostReg (addr : BitVec 12) (size : Nat) : HostReg :=
  if size = 4 ∧ addr.toNat % 4 = 0 then regAtIndex (addr.toNat / 4) else .reserved

/-- `BLEN` as read: the bit length of the selected buffer (R74); a length of `2^32` or more, which only a capacity
above the register's width allows, reads as a free value (log entry 4). -/
def blenWord (x : Bits) : Word :=
  if x.length < 2 ^ 32 then BitVec.ofNat 32 x.length else Config.blenTooLong x.length

/-- `BPTR <- p + 1` (R75, R76); past the register's last value it becomes a free value (log entry 4). -/
def bptrNext (p : Word) : Word :=
  if p.toNat + 1 < 2 ^ 32 then p + 1 else Config.bptrPastEnd

/-- `PBK_STATE` (R37): the engine's state in bits 1:0 and its hash in bit 4. -/
def pbkStateWord (e : PbkEngine) : Word :=
  (match e.state with
    | .idle => 0
    | .run => 1
    | .done => 2) |||
  (match e.alg with
    | .sha256 => 0x00
    | .sha512 => 0x10)

/-- An envelope register (R34). -/
def EnvRegs.get (r : EnvRegs) : EnvField → Word
  | .v => r.v
  | .iter => r.iter
  | .ks => r.ks
  | .ts => r.ts
  | .mode => r.mode
  | .cipher => r.cipher

/-- The envelope registers with one of them written (R34): any 32-bit value is accepted. -/
def EnvRegs.put (r : EnvRegs) (x : Word) : EnvField → EnvRegs
  | .v => { r with v := x }
  | .iter => { r with iter := x }
  | .ks => { r with ks := x }
  | .ts => { r with ts := x }
  | .mode => { r with mode := x }
  | .cipher => { r with cipher := x }

/-- The value a host read returns (R70 to R76; `NOISE` is write-only and reads as 0, R35). -/
def regRead (s : State) : HostReg → Word
  | .cmd => s.cmd
  | .status => s.status.toWord
  | .err => s.err.toWord
  | .errFirst => s.errFirst.toWord
  | .cmdCnt => s.cmdCnt
  | .ctrl => (0#28) ++ s.defParanoia
  | .id => idWord
  | .scal i => s.scalAt i
  | .bsel => BitVec.ofNat 32 s.bsel.val
  | .blen => blenWord (s.bufAt s.bsel)
  | .bptr => s.bptr
  | .bdata =>
    if s.bptr.toNat < wordCount (s.bufAt s.bsel) then wordAt (s.bufAt s.bsel) s.bptr.toNat else 0
  | .pbkState => pbkStateWord s.pbk
  | .pbkBlk => BitVec.ofNat 32 s.pbk.k
  | .pbkIter => BitVec.ofNat 32 s.pbk.i
  | .env f => s.env.get f
  | .timeLo => s.timeLo
  | .timeHi => s.timeHi
  | .noise _ => 0
  | .reserved => 0

/-- What a host read changes: `BDATA` advances `BPTR` when it delivered a word, and no other read changes anything
(R76, R80). -/
def regReadEffect (s : State) (r : HostReg) : State :=
  if r = .bdata ∧ s.bptr.toNat < wordCount (s.bufAt s.bsel) then { s with bptr := bptrNext s.bptr } else s

/-- The buffer after a write of `v` to its word `p` (R75): the word's bits are replaced, of a final partial word only
the high bits of `v` are taken, and the length stays. -/
def bufWithWord (x : Bits) (p : Nat) (v : Word) : Bits :=
  let n := x.length
  let m := min 32 (n - 32 * p)
  slice x 0 (32 * p) ++ slice (bvToBits v) 0 m ++ slice x (32 * p + m) n

/-- A host write of `v` to a register other than `CMD` (R70 to R75, R31, R32): registers the host may not write, and
reserved addresses, ignore it (R72). -/
def regWrite (s : State) (v : Word) : HostReg → State
  | .cmd => s
  | .status => s
  | .err => s
  | .errFirst => ackErrors s
  | .cmdCnt => s
  | .ctrl => if (v.extractLsb' 0 4).toNat ≤ 10 then { s with defParanoia := v.extractLsb' 0 4 } else s
  | .id => s
  | .scal i => s.setScal i v
  | .bsel => { s with bsel := ⟨v.toNat % 16, Nat.mod_lt _ (by decide)⟩, bptr := 0 }
  | .blen => if fitsBuf v.toNat then { s.setBuf s.bsel (zeros v.toNat) with bptr := 0 } else s
  | .bptr => { s with bptr := v }
  | .bdata =>
    if s.bptr.toNat < wordCount (s.bufAt s.bsel) then
      { s.setBuf s.bsel (bufWithWord (s.bufAt s.bsel) s.bptr.toNat v) with bptr := bptrNext s.bptr }
    else s
  | .pbkState => s
  | .pbkBlk => s
  | .pbkIter => s
  | .env f => s.setEnv (s.env.put v f)
  | .timeLo => { s with timeLo := v }
  | .timeHi => { s with timeHi := v }
  | .noise i => { s with noise := s.noise.set i.val v i.isLt }
  | .reserved => s

/-- What the next action of the outside world asks of the core. -/
inductive Request where
  /-- No action is to come: the core is idle between commands (R475, R492). -/
  | idle
  /-- A register access, a platform input or a reset, with the state after it. -/
  | settled (s : State)
  /-- A write to `CMD`: the word to execute, and the state after `CMD <- cw` (R100 step 1). -/
  | command (cw : Word) (s : State)
deriving DecidableEq, Repr

/-- Take the next action (R81: host accesses and commands form one total order). -/
def takeAction (s : State) : Request :=
  match s.hostIn with
  | [] => .idle
  | .read addr size :: rest =>
    let s0 := { s with hostIn := rest }
    let r := hostReg addr size
    .settled { regReadEffect s0 r with hostOut := regRead s0 r :: s.hostOut }
  | .write addr size v :: rest =>
    let s0 := { s with hostIn := rest }
    let r := hostReg addr size
    if r = .cmd then .command v { s0 with cmd := v } else .settled (regWrite s0 v r)
  | .setTime now :: rest =>
    .settled { s with hostIn := rest, timeHi := now.extractLsb' 32 32, timeLo := now.extractLsb' 0 32 }
  | .setNoise noise :: rest => .settled { s with hostIn := rest, noise := noise }
  | .reset :: rest => .settled (hardReset { s with hostIn := rest })

end Sys2Proof.Machine
end

