-- ==== Sys2Proof/Machine/Step.lean ====
section
/-! DEFINITION. One step of the machine (30_encoding.md R100; 20_memory.md R81, R83; 60_exceptions.md R475): the next
action of the host or the platform, and, when it is a write to `CMD`, the whole command. -/

namespace Sys2Proof.Machine

/-- The opcode byte of a command word (R101). -/
def opByte (cw : Word) : Byte := cw.extractLsb' 24 8

/-- Execution of a command word (R100 steps 2 to 6), `CMD` being written already. -/
def runWord (cw : Word) (s : State) : Out :=
  match decode cw with
  | .error _ => .next (illegalCommand (opByte cw) s)
  | .ok i => exec i s

/-- One step. With no action to come the core is idle and nothing changes (R475). -/
def step (s : State) : Host.Outcome State Fault Refusal :=
  match takeAction s with
  | .idle => .next s
  | .settled t => .next t
  | .command cw t => runWord cw t

/-- The state in which the host writes this command word to `CMD` next (R100: a command is fetched by no counter, it is
written to `CMD`; log entry 5). -/
def State.withFetchWord (s : State) (nbits w : Nat) : State :=
  { s with hostIn := .write 0x000 4 (BitVec.ofNat 32 (w % 2 ^ nbits)) :: s.hostIn }

end Sys2Proof.Machine
end

