-- ==== Sys2Proof/Machine/HostCodecs.lean ====
section
/-! DEFINITION. What the spec defines on the host's side: the UTF-8 codecs (40_bitarray_codecs.md R149, R150), the
pseudo-instructions and the host macros (30_encoding.md R115). No command uses them. -/

namespace Sys2Proof.Machine

/-- A Unicode scalar value. -/
def isScalarValue (u : Nat) : Bool := decide (u < 0xD800 ∨ (0xE000 ≤ u ∧ u < 0x110000))

/-- The bytes of one character (R149). -/
def utf8Char (u : Nat) : List Byte :=
  if u < 0x80 then [BitVec.ofNat 8 u]
  else if u < 0x800 then [BitVec.ofNat 8 (0xC0 + u / 2 ^ 6), BitVec.ofNat 8 (0x80 + u % 2 ^ 6)]
  else if u < 0x10000 then
    [BitVec.ofNat 8 (0xE0 + u / 2 ^ 12), BitVec.ofNat 8 (0x80 + u / 2 ^ 6 % 2 ^ 6), BitVec.ofNat 8 (0x80 + u % 2 ^ 6)]
  else
    [BitVec.ofNat 8 (0xF0 + u / 2 ^ 18), BitVec.ofNat 8 (0x80 + u / 2 ^ 12 % 2 ^ 6),
      BitVec.ofNat 8 (0x80 + u / 2 ^ 6 % 2 ^ 6), BitVec.ofNat 8 (0x80 + u % 2 ^ 6)]

/-- `utf8_encode` (R149). -/
def utf8Encode (s : List Nat) : List Byte := s.flatMap utf8Char

/-- How many bytes a character with this lead byte has. -/
def utf8Size (lead : Nat) : Nat := if lead < 0x80 then 1 else if lead < 0xE0 then 2 else if lead < 0xF0 then 3 else 4

/-- The value in the bytes of one character: the low bits of the lead byte, six of each byte after it (R149). -/
def utf8Value (c : List Byte) : Nat :=
  match c with
  | [] => 0
  | lead :: rest =>
    let n := lead.toNat
    let top := if n < 0x80 then n else if n < 0xE0 then n % 2 ^ 5 else if n < 0xF0 then n % 2 ^ 4 else n % 2 ^ 3
    rest.foldl (fun acc b => acc * 2 ^ 6 + b.toNat % 2 ^ 6) top

/-- These bytes are what `utf8_encode` writes for the one character `u` (R149). It is how both decoders know well-formed
text: an over-long form, a truncated sequence, a bad continuation byte (U3), and the form of a value that is no scalar
value, are none of them. -/
def utf8Exact (u : Nat) (c : List Byte) : Bool := isScalarValue u && utf8Char u == c

/-- `utf8_decode` on well-formed text, the inverse of `utf8_encode`; nothing is said of any other (R150, U3). The first
argument bounds the number of characters. -/
def utf8DecodeFrom : Nat → List Byte → Option (List Nat)
  | _, [] => some []
  | 0, _ :: _ => none
  | k + 1, c :: cs =>
    let size := utf8Size c.toNat
    let u := utf8Value ((c :: cs).take size)
    if utf8Exact u ((c :: cs).take size) then (utf8DecodeFrom k ((c :: cs).drop size)).map (u :: ·)
    else none

/-- `utf8_decode` (R150). -/
def utf8Decode (t : List Byte) : Option (List Nat) := utf8DecodeFrom t.length t

/-- The legacy decoder, which knows sequences of up to three bytes and computes their values as R150 says; nothing is
said where the rule and U3 leave it undefined: a truncated sequence, a bad continuation byte, an over-long form, a lead
byte of `0xF0` or more. That a byte `0x80..0xBF` in the place of a lead byte, and the form of a surrogate, are
ill-formed too is DEDUCED (log entry 21). -/
def utf8DecodeLegacy : List Byte → Option (List Nat)
  | [] => some []
  | c :: cs =>
    if c.toNat < 0x80 then (utf8DecodeLegacy cs).map (c.toNat :: ·)
    else
      match cs with
      | [] => none
      | c2 :: cs2 =>
        if 0xC0 ≤ c.toNat ∧ c.toNat < 0xE0 then
          let u := c.toNat % 2 ^ 5 * 2 ^ 6 + c2.toNat % 2 ^ 6
          if utf8Exact u [c, c2] then (utf8DecodeLegacy cs2).map (u :: ·) else none
        else
          match cs2 with
          | [] => none
          | c3 :: cs3 =>
            let u := c.toNat % 2 ^ 4 * 2 ^ 12 + c2.toNat % 2 ^ 6 * 2 ^ 6 + c3.toNat % 2 ^ 6
            if utf8Exact u [c, c2, c3] then (utf8DecodeLegacy cs3).map (u :: ·) else none

/-- The pseudo-instruction `SHA256 Ba, Bb` (R115). -/
def pseudoSha256 (a b : BufIx) : Instr := .hashDigest a b .sha256

/-- The pseudo-instruction `SHA512 Ba, Bb` (R115). -/
def pseudoSha512 (a b : BufIx) : Instr := .hashDigest a b .sha512

/-- The pseudo-instruction `HMAC256 Ba, Bb, Bc` (R115). -/
def pseudoHmac256 (a b c : BufIx) : Instr := .hmac a b c .sha256

/-- The pseudo-instruction `HMAC512 Ba, Bb, Bc` (R115). -/
def pseudoHmac512 (a b c : BufIx) : Instr := .hmac a b c .sha512

/-- `RNG.WORDS Ba, Sc` with the level omitted (R115). -/
def pseudoRngWords (a : BufIx) (c : ScalIx) : Instr := .rngWords a c 15

/-- `RNG.ISREADY Sa` with the level omitted (R115). -/
def pseudoRngIsReady (a : ScalIx) : Instr := .rngIsReady a 15

/-- The host macro `LOADB Bn, x` (R115). -/
def macroLoadB (n : BufIx) (x : Bits) : List HostAction :=
  .write 0x040 4 (BitVec.ofNat 32 n.val) :: .write 0x044 4 (BitVec.ofNat 32 x.length) ::
    (List.range (wordCount x)).map fun i => .write 0x04C 4 (wordAt x i)

/-- The host macro `LOADS Sn, v` (R115). -/
def macroLoadS (n : ScalIx) (v : Word) : List HostAction := [.write (BitVec.ofNat 12 (0x020 + 4 * n.val)) 4 v]

/-- The host macro `READB Bn` for a buffer of `len` bits, the value its read of `BLEN` returns (R115). -/
def macroReadB (n : BufIx) (len : Nat) : List HostAction :=
  .write 0x040 4 (BitVec.ofNat 32 n.val) :: .read 0x044 4 :: List.replicate (ceilDiv len 32) (.read 0x04C 4)

/-- The host macro `READS Sn` (R115). -/
def macroReadS (n : ScalIx) : List HostAction := [.read (BitVec.ofNat 12 (0x020 + 4 * n.val)) 4]

/-- The host macro `ISSUE cw` (R115). -/
def macroIssue (cw : Word) : List HostAction := [.write 0x000 4 cw]

end Sys2Proof.Machine
end

