-- ==== Sys2Proof/Safety.lean ====
section
/-! DEFINITION. The terms in which statements speak of the machine: runs, what a command may write, the ends of a
command, the invariants that hold between commands, and what the host can see. -/

namespace Sys2Proof.Machine

/-- `k` steps, stopping at the first fault or refusal. -/
def runSteps : Nat → State → Out
  | 0, s => .next s
  | k + 1, s =>
    match step s with
    | .next t => runSteps k t
    | .fault f => .fault f
    | .refused r => .refused r

/-- The state after a command with this opcode succeeded with the result `x` for buffer `a`. -/
def State.wrote (s : State) (op : Byte) (a : BufIx) (x : Bits) : State := (s.setBuf a x).succeed op

/-- The state after a command with this opcode succeeded with the result `v` for scalar `a`. -/
def State.wroteScal (s : State) (op : Byte) (a : ScalIx) (v : Word) : State := (s.setScal a v).succeed op

/-- The state after a command with this opcode, whose destination is buffer `a`, failed (R456). -/
def State.failedTo (s : State) (op : Byte) (a : BufIx) (e : Err) : State := (s.setBuf a []).fail op e

/-- The buffer that error entry empties (R456): the buffer destination in field `a`, and `B15` for `ENV.ENC`. -/
def errorBuffer : Instr → Option BufIx
  | .nop => none
  | .zeroize => none
  | .baLen _ _ => none
  | .baSlice a _ _ _ => some a
  | .baExtract _ _ _ _ => none
  | .baConcat a _ _ => some a
  | .baClamp a _ _ => some a
  | .baEqual _ _ _ => none
  | .baPartial a _ _ _ => some a
  | .baGetPartial _ _ => none
  | .hexDec a _ => some a
  | .hexEnc a _ => some a
  | .b64Dec a _ _ => some a
  | .b64Enc a _ _ _ => some a
  | .aesKey _ _ => none
  | .aesEnc a _ _ => some a
  | .aesDec a _ _ => some a
  | .hashReset _ _ => none
  | .hashUpdate _ _ => none
  | .hashFinal a _ => some a
  | .hashDigest a _ _ => some a
  | .hmac a _ _ _ => some a
  | .pbkdf2 a _ _ _ _ _ => some a
  | .pbkdf2Init _ _ _ _ _ => none
  | .pbkdf2Step _ _ => none
  | .pbkdf2Read a => some a
  | .cbcEnc a _ _ _ _ => some a
  | .cbcDec a _ _ _ _ => some a
  | .ccmEnc a _ _ _ _ _ => some a
  | .ccmDec a _ _ _ _ _ => some a
  | .ocb2Enc a _ _ _ _ _ => some a
  | .ocb2Dec a _ _ _ _ _ => some a
  | .gcmEnc a _ _ _ _ _ => some a
  | .gcmDec a _ _ _ _ _ => some a
  | .rngAddentN _ _ _ _ => none
  | .rngAddentW _ _ _ _ => none
  | .rngAddentS _ _ _ _ => none
  | .rngIsReady _ _ => none
  | .rngWords a _ _ => some a
  | .envDec a _ _ => some a
  | .envEnc _ _ _ => some ctBuf
  | .envParse _ => none
  | .envSer a => some a
  | .md5 a _ => some a
  | .crc32 _ _ => none
  | .rc2Key _ _ => none
  | .rc2Enc a _ => some a
  | .rc2Dec a _ => some a
  | .legacyDec a _ _ => some a
  | .legacyEnc a _ _ => some a
  | .enc0Dec a _ _ => some a
  | .dispatchDec a _ _ _ _ => some a

/-- The errors a command can raise (R453), `IllegalCommand` apart, which is raised before there is a command. -/
def errorsOf : Instr → List Err
  | .nop => []
  | .zeroize => []
  | .baLen _ _ => []
  | .baSlice _ _ _ _ => [.invalidParameter]
  | .baExtract _ _ _ _ => [.invalidParameter]
  | .baConcat _ _ _ => [.bufferOverflow]
  | .baClamp _ _ _ => []
  | .baEqual _ _ _ => []
  | .baPartial _ _ _ _ => [.invalidParameter]
  | .baGetPartial _ _ => []
  | .hexDec _ _ => [.invalidParameter, .invalidEncoding]
  | .hexEnc _ _ => [.invalidParameter, .bufferOverflow]
  | .b64Dec _ _ _ => [.invalidParameter, .invalidEncoding]
  | .b64Enc _ _ _ _ => [.invalidParameter, .bufferOverflow]
  | .aesKey _ _ => [.invalidKeySize]
  | .aesEnc _ _ _ => [.invalidState, .invalidBlockSize]
  | .aesDec _ _ _ => [.invalidState, .invalidBlockSize]
  | .hashReset _ _ => []
  | .hashUpdate _ _ => [.invalidState, .invalidParameter]
  | .hashFinal _ _ => [.invalidState]
  | .hashDigest _ _ _ => []
  | .hmac _ _ _ _ => []
  | .pbkdf2 _ _ _ _ _ _ => [.invalidParameter, .bufferOverflow]
  | .pbkdf2Init _ _ _ _ _ => [.invalidParameter, .bufferOverflow]
  | .pbkdf2Step _ _ => [.invalidState]
  | .pbkdf2Read _ => [.invalidState]
  | .cbcEnc _ _ _ _ _ => [.invalidState, .notSupported, .invalidIV, .invalidParameter, .bufferOverflow]
  | .cbcDec _ _ _ _ _ => [.invalidState, .notSupported, .invalidIV, .corruptPadding]
  | .ccmEnc _ _ _ _ _ _ => [.invalidState, .invalidParameter, .invalidIV, .bufferOverflow]
  | .ccmDec _ _ _ _ _ _ => [.invalidState, .invalidParameter, .invalidIV, .corruptTag]
  | .ocb2Enc _ _ _ _ _ _ => [.invalidState, .invalidParameter, .invalidIV, .bufferOverflow]
  | .ocb2Dec _ _ _ _ _ _ => [.invalidState, .invalidParameter, .invalidIV, .corruptTag]
  | .gcmEnc _ _ _ _ _ _ => [.invalidState, .invalidParameter, .invalidIV, .bufferOverflow]
  | .gcmDec _ _ _ _ _ _ => [.invalidState, .invalidParameter, .invalidIV, .corruptTag]
  | .rngAddentN _ _ _ _ => [.invalidParameter]
  | .rngAddentW _ _ _ _ => [.invalidParameter]
  | .rngAddentS _ _ _ _ => [.invalidParameter]
  | .rngIsReady _ _ => [.invalidParameter]
  | .rngWords _ _ _ => [.invalidParameter, .bufferOverflow, .generatorNotSeeded]
  | .envDec _ _ _ => [.invalidParameter, .unsupportedCipher, .unsupportedMode, .invalidKeySize, .invalidIV, .notSupported, .corruptPadding, .corruptTag]
  | .envEnc _ _ _ => [.invalidParameter, .unsupportedCipher, .unsupportedMode, .invalidKeySize, .invalidIV, .notSupported, .bufferOverflow]
  | .envParse _ => [.invalidParameter, .invalidEnvelope, .invalidEncoding, .bufferOverflow]
  | .envSer _ => [.unsupportedCipher, .unsupportedMode, .invalidParameter, .bufferOverflow]
  | .md5 _ _ => [.invalidParameter]
  | .crc32 _ _ => [.invalidParameter]
  | .rc2Key _ _ => [.invalidKeySize, .invalidParameter]
  | .rc2Enc _ _ => [.invalidState, .invalidBlockSize]
  | .rc2Dec _ _ => [.invalidState, .invalidBlockSize]
  | .legacyDec _ _ _ => [.invalidParameter, .badPassword]
  | .legacyEnc _ _ _ => [.invalidParameter, .bufferOverflow]
  | .enc0Dec _ _ _ => [.invalidParameter, .badPassword]
  | .dispatchDec _ _ _ _ _ => [.unsupportedCipher, .invalidParameter, .badPassword]

/-- The command may write buffer `b`: its destination, the four buffers of the record for `ENV.PARSE`, all of them for
`ZEROIZE`. -/
def mayWriteBuf (i : Instr) (b : BufIx) : Bool :=
  (errorBuffer i == some b) ||
    match i with
    | .zeroize => true
    | .envParse _ => decide (12 ≤ b.val)
    | _ => false

/-- The command may write scalar `j`. -/
def mayWriteScal (i : Instr) (j : ScalIx) : Bool :=
  match i with
  | .nop => false
  | .zeroize => true
  | .baLen a _ => j == a
  | .baSlice _ _ _ _ => false
  | .baExtract a _ _ _ => j == a
  | .baConcat _ _ _ => false
  | .baClamp _ _ _ => false
  | .baEqual a _ _ => j == a
  | .baPartial _ _ _ _ => false
  | .baGetPartial a _ => j == a
  | .hexDec _ _ => false
  | .hexEnc _ _ => false
  | .b64Dec _ _ _ => false
  | .b64Enc _ _ _ _ => false
  | .aesKey _ _ => false
  | .aesEnc _ _ _ => false
  | .aesDec _ _ _ => false
  | .hashReset _ _ => false
  | .hashUpdate _ _ => false
  | .hashFinal _ _ => false
  | .hashDigest _ _ _ => false
  | .hmac _ _ _ _ => false
  | .pbkdf2 _ _ _ _ _ _ => false
  | .pbkdf2Init _ _ _ _ _ => false
  | .pbkdf2Step a _ => j == a
  | .pbkdf2Read _ => false
  | .cbcEnc _ _ _ _ _ => false
  | .cbcDec _ _ _ _ _ => false
  | .ccmEnc _ _ _ _ _ _ => false
  | .ccmDec _ _ _ _ _ _ => false
  | .ocb2Enc _ _ _ _ _ _ => false
  | .ocb2Dec _ _ _ _ _ _ => false
  | .gcmEnc _ _ _ _ _ _ => false
  | .gcmDec _ _ _ _ _ _ => false
  | .rngAddentN _ _ _ _ => false
  | .rngAddentW _ _ _ _ => false
  | .rngAddentS _ _ _ _ => false
  | .rngIsReady a _ => j == a
  | .rngWords _ _ _ => false
  | .envDec _ _ _ => false
  | .envEnc _ _ _ => false
  | .envParse _ => false
  | .envSer _ => false
  | .md5 _ _ => false
  | .crc32 a _ => j == a
  | .rc2Key _ _ => false
  | .rc2Enc _ _ => false
  | .rc2Dec _ _ => false
  | .legacyDec _ _ _ => false
  | .legacyEnc _ _ _ => false
  | .enc0Dec _ _ _ => false
  | .dispatchDec _ _ _ _ _ => false

/-- The command may write key slot `j` (R25). -/
def mayWriteKey (i : Instr) (j : KeyIx) : Bool :=
  match i with
  | .zeroize => true
  | .aesKey a _ => j == a
  | _ => false

/-- The command may write hash slot `j` (R26). -/
def mayWriteHash (i : Instr) (j : HashIx) : Bool :=
  match i with
  | .zeroize => true
  | .hashReset a _ => j == a
  | .hashUpdate a _ => j == a
  | .hashFinal _ e => j == e
  | _ => false

/-- The command may write `RK` (R27). -/
def mayWriteRk : Instr → Bool
  | .zeroize => true
  | .rc2Key _ _ => true
  | _ => false

/-- The command may write the PBKDF2 engine (R37). -/
def mayWriteEngine : Instr → Bool
  | .zeroize => true
  | .pbkdf2Init _ _ _ _ _ => true
  | .pbkdf2Step _ _ => true
  | .pbkdf2Read _ => true
  | _ => false

/-- The command may write the generator (R38): `ZEROIZE` may not. -/
def mayWriteRng : Instr → Bool
  | .rngAddentN _ _ _ _ => true
  | .rngAddentW _ _ _ _ => true
  | .rngAddentS _ _ _ _ => true
  | .rngWords _ _ _ => true
  | _ => false

/-- The command may write the envelope registers (R34). -/
def mayWriteEnv : Instr → Bool
  | .zeroize => true
  | .envParse _ => true
  | _ => false

/-- Everything a command may not write is in `t` as it is in `s`. The status registers and `CMDCNT` are not spoken of:
every command writes them. -/
structure KeepsTheRest (i : Instr) (s t : State) : Prop where
  bufs : ∀ b, mayWriteBuf i b = false → t.bufAt b = s.bufAt b
  scals : ∀ j, mayWriteScal i j = false → t.scalAt j = s.scalAt j
  keys : ∀ j, mayWriteKey i j = false → t.keyAt j = s.keyAt j
  hashes : ∀ j, mayWriteHash i j = false → t.hashAt j = s.hashAt j
  rk : mayWriteRk i = false → t.rk = s.rk
  engine : mayWriteEngine i = false → t.pbk = s.pbk
  generator : mayWriteRng i = false → t.rng = s.rng
  envelope : mayWriteEnv i = false → t.env = s.env
  port : i ≠ .zeroize → t.bsel = s.bsel ∧ t.bptr = s.bptr
  others : t.cmd = s.cmd ∧ t.defParanoia = s.defParanoia ∧ t.timeLo = s.timeLo ∧ t.timeHi = s.timeHi ∧
    t.noise = s.noise ∧ t.hostIn = s.hostIn ∧ t.hostOut = s.hostOut

/-- The status registers agree with each other (R29, R31), the core is not busy (R499), and `CTRL` holds a legal level
(R32). -/
structure StatusInv (s : State) : Prop where
  idle : s.status.busy = false
  last : s.status.err = true ↔ s.err.code ≠ none
  sticky : s.status.errs = true ↔ s.errFirst ≠ ErrReg.zero
  first : s.errFirst.code = none → s.errFirst = ErrReg.zero
  level : s.defParanoia.toNat ≤ 10

/-- A streaming hash context between commands (R26): the pending string is what the last full block left over, and the
length is below `2^64`. -/
structure ShaOk {w : Nat} (p : ShaParams w) (c : ShaState w) : Prop where
  pending : c.buf.length = c.len % p.bs
  length : c.len < 2 ^ 64

/-- A full hash slot between commands (R26). -/
def HashOk : HashCtx → Prop
  | .sha256 c => ShaOk sha256P c
  | .sha512 c => ShaOk sha512P c

/-- The context slots (R25, R26): a full key slot holds the context of some key of a legal length. -/
structure SlotInv (s : State) : Prop where
  keys : ∀ i c, s.keyAt i = some c → ∃ key, isAesKeyLength key.length = true ∧ c = aesContext key
  hashes : ∀ i c, s.hashAt i = some c → HashOk c

/-- The PBKDF2 engine between commands (R37). -/
structure EngineOk (e : PbkEngine) : Prop where
  count : e.count < 2 ^ 31
  length : e.length < 2 ^ 31
  fits : fitsBuf e.length = true
  block : 1 ≤ e.k
  round : e.i < max e.count 1
  out : e.out.length = (e.k - 1) * hashDigestBits e.alg
  fresh : e.i = 0 → e.last = [] ∧ e.acc = []
  going : 0 < e.i → e.last.length = hashDigestBits e.alg ∧ e.acc.length = hashDigestBits e.alg
  idle : e.state = .idle → e = PbkEngine.reset
  running : e.state = .run → e.out.length < e.length
  finished : e.state = .done → e.length ≤ e.out.length

/-- Every buffer fits its capacity (R22), and the engine is sound (its result is to fit a buffer). -/
structure BufferInv (s : State) : Prop where
  bufs : ∀ b, fitsBuf (s.bufAt b).length = true
  engine : EngineOk s.pbk

/-- The generator between commands (R38, R325, R331). -/
structure GeneratorInv (p : Prng) : Prop where
  pools : p.npools ≤ rngMaxPools
  robin : ∀ tag : TagIx, p.robin.get tag < p.npools
  sum : p.poolStrength.toNat = (p.pools.map fun x => x.entropy.toNat).sum
  contexts : ∀ x ∈ p.pools, ShaOk sha256P x.ctx
  seeded : 0 < p.strength.toNat → p.cipher ≠ none
  cipher : ∀ c, p.cipher = some c → c = keyCipher p.key

/-- All the invariants that hold between commands. -/
structure StateInv (s : State) : Prop where
  status : StatusInv s
  slots : SlotInv s
  buffers : BufferInv s
  generator : GeneratorInv s.rng

/-- What an accepted entropy event makes of the generator (R326): it goes to the pool that the source's round-robin
index names. -/
structure FedBy (p q : Prng) (now : BitVec 64) (kind : Nat) (body : Bits) (n est : Nat) (tag : TagIx) : Prop where
  pools : ∃ pool, p.pools[p.robin.get tag]? = some pool ∧
    q.pools = p.pools.set (p.robin.get tag)
      { ctx := shaAbsorb sha256P pool.ctx (entropyHeader p now kind n est tag ++ body)
        entropy := pool.entropy + BitVec.ofNat 32 est }
  robin : q.robin = p.robin.set tag.val ((p.robin.get tag + 1) % p.npools) tag.isLt
  event : q.eventId = p.eventId + 1
  strength : q.poolStrength = p.poolStrength + BitVec.ofNat 32 est
  rest : q.strength = p.strength ∧ q.reseedCount = p.reseedCount ∧ q.nextReseed = p.nextReseed ∧ q.key = p.key ∧
    q.ctr = p.ctr ∧ q.cipher = p.cipher

/-- The bits the pool of a source has taken so far. -/
def fedBits (p : Prng) (tag : TagIx) : Nat :=
  match p.pools[p.robin.get tag]? with
  | none => 0
  | some pool => pool.ctx.len

/-- The nine checks of `validate` as conditions with their errors, in their order (R363). -/
def envChecks (r : EnvRecord) (pw : Bits) (rawkey : Bool) : List (Bool × Err) := [
  (r.regs.v != 1, .invalidParameter),
  (r.regs.cipher != 0, .unsupportedCipher),
  (decide (3 < r.regs.mode.toNat), .unsupportedMode),
  (!rawkey && pw.length % 8 != 0, .invalidParameter),
  (!rawkey && decide (r.regs.iter.toNat ≤ 100 ∨ 2 ^ 31 ≤ r.regs.iter.toNat), .invalidParameter),
  (!([64, 96, 128].contains r.regs.ts.toNat), .invalidParameter),
  (!([128, 192, 256].contains r.regs.ks.toNat), .invalidParameter),
  (!(decide (33 ≤ r.iv.length ∧ r.iv.length ≤ 128)), .invalidParameter),
  (rawkey && !([128, 192, 256].contains pw.length), .invalidKeySize)]

/-- The error of the first check that fails. -/
def firstFailing (l : List (Bool × Err)) : Option Err := (l.find? fun c => c.1).map fun c => c.2

/-! The grammar and the reading of the envelope text, as R370, R371 and R373 state them; the parser is a function of
its own, in Machine/Envelope.lean. -/

/-- `digit` (R370). -/
def digitChars : List Byte := ascii ['0', '1', '2', '3', '4', '5', '6', '7', '8', '9']

/-- `alnum` (R370). -/
def alnumChars : List Byte :=
  ascii ['a', 'b', 'c', 'd', 'e', 'f', 'g', 'h', 'i', 'j', 'k', 'l', 'm', 'n', 'o', 'p', 'q', 'r', 's', 't', 'u', 'v',
    'w', 'x', 'y', 'z', 'A', 'B', 'C', 'D', 'E', 'F', 'G', 'H', 'I', 'J', 'K', 'L', 'M', 'N', 'O', 'P', 'Q', 'R', 'S',
    'T', 'U', 'V', 'W', 'X', 'Y', 'Z'] ++ digitChars

/-- `schar` (R370). -/
def scharChars : List Byte := alnumChars ++ ascii ['+', '/', '%', '*', '_', '.', '@', '=', '-']

/-- `t` is a `name` that names `n` (R370): bare, or in quotes of either kind. -/
def IsName (t n : List Byte) : Prop :=
  n ≠ [] ∧ (∀ c ∈ n, c ∈ alnumChars) ∧
    (t = n ∨ t = ascii ['"'] ++ n ++ ascii ['"'] ∨ t = ascii ['\''] ++ n ++ ascii ['\''])

/-- `t` is a `value` (R370); an integer's value is that of its decimal digits, leading zeros allowed (R373). -/
inductive IsValue : List Byte → EnvValue → Prop where
  | integer (t : List Byte) : t ≠ [] → (∀ c ∈ t, c ∈ digitChars) →
      IsValue t (.integer (Nat.ofDigits 10 (t.reverse.map fun c => c.toNat - 0x30)))
  | string (t : List Byte) : (∀ c ∈ t, c ∈ scharChars) → IsValue (ascii ['"'] ++ t ++ ascii ['"']) (.string t)
  | yes : IsValue (ascii ['t', 'r', 'u', 'e']) (.boolean true)
  | no : IsValue (ascii ['f', 'a', 'l', 's', 'e']) (.boolean false)

/-- `t` is a `pair` of this name and value (R370). -/
def IsPair (t : List Byte) (p : List Byte × EnvValue) : Prop :=
  ∃ a b, t = a ++ ascii [':'] ++ b ∧ IsName a p.1 ∧ IsValue b p.2

/-- `t` is an `envelope` of these pairs (R370): at least one, between braces, with commas between them. -/
def IsEnvelope (t : List Byte) (ps : List (List Byte × EnvValue)) : Prop :=
  ∃ texts, texts ≠ [] ∧ List.Forall₂ IsPair texts ps ∧
    t = [0x7B] ++ (texts.intersperse (ascii [','])).flatten ++ [0x7D]

/-- The fields that take an integer (R371, R373). -/
def integerFields : List (List Byte) := [ascii ['v'], ascii ['i', 't', 'e', 'r'], ascii ['k', 's'], ascii ['t', 's']]

/-- The fields that take a name (R371, R373). -/
def nameFields : List (List Byte) := [ascii ['m', 'o', 'd', 'e'], ascii ['c', 'i', 'p', 'h', 'e', 'r']]

/-- The fields that take a base64 string (R371, R373). -/
def binaryFields : List (List Byte) :=
  [ascii ['a', 'd', 'a', 't', 'a'], ascii ['i', 'v'], ascii ['s', 'a', 'l', 't'], ascii ['c', 't']]

/-- The error of one pair, the names of the pairs before it being `earlier` (R373): an unknown name, a name that
occurred, a value of the wrong type, an integer of `2^32` or more, text that is not base64. -/
def pairError (earlier : List (List Byte)) (p : List Byte × EnvValue) : Option Err :=
  if p.1 ∉ integerFields ++ nameFields ++ binaryFields then some .invalidEnvelope
  else if p.1 ∈ earlier then some .invalidEnvelope
  else
    match p.2 with
    | .integer n => if p.1 ∈ integerFields ∧ n < 2 ^ 32 then none else some .invalidEnvelope
    | .boolean _ => some .invalidEnvelope
    | .string t =>
      if p.1 ∈ integerFields then some .invalidEnvelope
      else if p.1 ∈ nameFields then none
      else
        match b64DecodeBytes false t with
        | none => some .invalidEncoding
        | some x => if fitsBuf x.length then none else some .bufferOverflow

/-- The error of the first pair that has one, left to right (R373). -/
def firstPairError (ps : List (List Byte × EnvValue)) : Option Err :=
  (List.range ps.length).findSome? fun j => ps[j]?.bind (pairError ((ps.take j).map fun p => p.1))

/-- The value a text gives a field, if it names it. -/
def fieldValue (ps : List (List Byte × EnvValue)) (name : List Byte) : Option EnvValue :=
  (ps.find? fun p => p.1 == name).map fun p => p.2

/-- An integer field, with its default (R373). -/
def integerField (ps : List (List Byte × EnvValue)) (name : List Byte) (default : Word) : Word :=
  match fieldValue ps name with
  | some (.integer n) => BitVec.ofNat 32 n
  | _ => default

/-- A name field (R373): its place among the known names, `0xFFFFFFFF` for any other name, 0 when it is absent. -/
def nameField (ps : List (List Byte × EnvValue)) (name : List Byte) (known : List (List Byte)) : Word :=
  match fieldValue ps name with
  | some (.string t) => if t ∈ known then BitVec.ofNat 32 (known.idxOf t) else 0xFFFFFFFF
  | _ => 0

/-- A binary field (R373), empty when it is absent. -/
def binaryField (ps : List (List Byte × EnvValue)) (name : List Byte) : Bits :=
  match fieldValue ps name with
  | some (.string t) => (b64DecodeBytes false t).getD []
  | _ => []

/-- The mode names in the order of their codes (R371). -/
def modeNames : List (List Byte) :=
  [ascii ['c', 'c', 'm'], ascii ['g', 'c', 'm'], ascii ['o', 'c', 'b', '2'], ascii ['c', 'b', 'c']]

/-- The record a text of these pairs describes (R373): a field it does not name has its default (R360). -/
def recordOf (ps : List (List Byte × EnvValue)) : EnvRecord :=
  { regs :=
      { v := integerField ps (ascii ['v']) 1
        iter := integerField ps (ascii ['i', 't', 'e', 'r']) 1000
        ks := integerField ps (ascii ['k', 's']) 128
        ts := integerField ps (ascii ['t', 's']) 64
        mode := nameField ps (ascii ['m', 'o', 'd', 'e']) modeNames
        cipher := nameField ps (ascii ['c', 'i', 'p', 'h', 'e', 'r']) [ascii ['a', 'e', 's']] }
    adata := binaryField ps (ascii ['a', 'd', 'a', 't', 'a'])
    iv := binaryField ps (ascii ['i', 'v'])
    salt := binaryField ps (ascii ['s', 'a', 'l', 't'])
    ct := binaryField ps (ascii ['c', 't']) }

/-- The text of a record whose mode has this name, piece by piece as R372 prints it. -/
def printedText (r : EnvRecord) (mode : List Byte) : List Byte :=
  let field := fun name : List Char => ascii ['"'] ++ ascii name ++ ascii ['"', ':']
  let string := fun t : List Byte => ascii ['"'] ++ t ++ ascii ['"']
  let number := fun v : Word => ascii (Nat.toDigits 10 v.toNat)
  let b64 := fun x : Bits => string (b64EncodeBytes false false x)
  let comma := ascii [',']
  [0x7B] ++
    field ['v'] ++ number r.regs.v ++ comma ++
    field ['i', 't', 'e', 'r'] ++ number r.regs.iter ++ comma ++
    field ['k', 's'] ++ number r.regs.ks ++ comma ++
    field ['t', 's'] ++ number r.regs.ts ++ comma ++
    field ['m', 'o', 'd', 'e'] ++ string mode ++ comma ++
    field ['a', 'd', 'a', 't', 'a'] ++ b64 r.adata ++ comma ++
    field ['c', 'i', 'p', 'h', 'e', 'r'] ++ string (ascii ['a', 'e', 's']) ++ comma ++
    field ['i', 'v'] ++ b64 r.iv ++ comma ++
    field ['s', 'a', 'l', 't'] ++ b64 r.salt ++ comma ++
    field ['c', 't'] ++ b64 r.ct ++
  [0x7D]

/-- The number a block counter stands for, `ctr[0]` least significant (R330). -/
def Ctr.toNat (c : Ctr) : Nat := c.c0.toNat + 2 ^ 32 * c.c1.toNat + 2 ^ 64 * c.c2.toNat + 2 ^ 96 * c.c3.toNat

/-- The cipher input for a counter of this number modulo `2^128`: its least significant word first (R330). -/
def counterBlock (n : Nat) : Block :=
  BitVec.ofNat 32 n ++ BitVec.ofNat 32 (n / 2 ^ 32) ++ BitVec.ofNat 32 (n / 2 ^ 64) ++ BitVec.ofNat 32 (n / 2 ^ 96)

/-- A reseed takes pool `j` (R334): it is full, or no bit of `reseedCount` below `j` is set. -/
def reseedTakes (full : Bool) (p : Prng) (j : Nat) : Bool :=
  full || (List.range j).all fun i => !p.reseedCount.getLsbD i

/-- The pools a reseed takes, in order (R334). -/
def reseedPools (full : Bool) (p : Prng) : List Pool :=
  (p.pools.zipIdx.filter fun x => reseedTakes full p x.2).map fun x => x.1

/-- Two states show the host the same (R40, R85): all that a register read can return, and what host and platform do
next. The key, hash and RC2 slots, the engine's secret fields, the generator and `NOISE` are not spoken of. -/
structure SameToHost (s t : State) : Prop where
  buf : s.buf = t.buf
  scal : s.scal = t.scal
  cmd : s.cmd = t.cmd
  status : s.status = t.status
  errors : s.err = t.err ∧ s.errFirst = t.errFirst ∧ s.cmdCnt = t.cmdCnt
  ctrl : s.defParanoia = t.defParanoia
  port : s.bsel = t.bsel ∧ s.bptr = t.bptr
  env : s.env = t.env
  time : s.timeLo = t.timeLo ∧ s.timeHi = t.timeHi
  engine : s.pbk.state = t.pbk.state ∧ s.pbk.alg = t.pbk.alg ∧ s.pbk.k = t.pbk.k ∧ s.pbk.i = t.pbk.i
  host : s.hostIn = t.hostIn ∧ s.hostOut = t.hostOut

/-- Two requests show the host the same: they are of one kind, ask the same command, and leave states that show the
same. -/
def SameRequest : Request → Request → Prop
  | .idle, .idle => True
  | .settled s, .settled t => SameToHost s t
  | .command cw s, .command cw' t => cw = cw' ∧ SameToHost s t
  | _, _ => False

end Sys2Proof.Machine
end

