-- ==== Sys2Proof/Certificates/Slice0/Obligations.lean ====
section
/-! DEFINITION. The statements for the provers, from the numbered rules of spec/. -/

set_option Elab.async false

section Statements

open Sys2Proof Sys2Proof.Machine

/-- Words written out from R101 and R105, from every family, decode to their commands. -/
def Obligations.DecodeSampleWords : Prop :=
  decode 0x00000000 = .ok .nop ∧ decode 0x0F000000 = .ok .zeroize ∧
  decode 0x02100100 = .ok (.baSlice 1 0 0 1) ∧ decode 0x07201001 = .ok (.baPartial 2 0 1 true) ∧
  decode 0x13210003 = .ok (.b64Enc 2 1 true true) ∧ decode 0x21210030 = .ok (.aesEnc 2 1 3) ∧
  decode 0x30100001 = .ok (.hashReset 1 .sha512) ∧ decode 0x32100020 = .ok (.hashFinal 1 2) ∧
  decode 0x41201010 = .ok (.pbkdf2 2 0 1 0 1 .sha256) ∧
  decode 0x5021DC00 = .ok (.cbcEnc 2 1 13 12 0) ∧ decode 0x5732DC08 = .ok (.gcmDec 3 2 13 12 0 8) ∧
  decode 0x60001301 = .ok (.rngAddentN 0 1 3 true) ∧ decode 0x64201006 = .ok (.rngWords 2 1 6) ∧
  decode 0x71002000 = .ok (.envEnc 0 2 false) ∧ decode 0x82000000 = .ok (.rc2Key 0 0) ∧
  decode 0x91201300 = .ok (.dispatchDec 2 0 1 3 0)

/-- No operand bit of an encoding is lost (R101, R103, R105). -/
def Obligations.DecodeEncode : Prop :=
  ∀ i : Instr, wellFormed i = true → decode (encode i) = .ok i

/-- Each legal word stands for one command and is its only word (R105, R106). -/
def Obligations.EncodeDecode : Prop :=
  ∀ (cw : Word) (i : Instr), decode cw = .ok i → wellFormed i = true ∧ encode i = cw

/-- Illegal words by mask and match (R106, R112), and their error entry, which empties no buffer (R456). -/
def Obligations.IllegalWord : Prop :=
  ∀ (s : State) (rest : List HostAction) (cw : Word), s.hostIn = .write 0x000 4 cw :: rest →
    (∀ r ∈ rows, cw &&& r.mask ≠ r.pattern) →
    step s = .next
      { s with
        hostIn := rest, cmd := cw, cmdCnt := s.cmdCnt + 1
        status := { busy := false, done := true, err := true, errs := true }
        err := { op := cw.extractLsb' 24 8, code := some .illegalCommand }
        errFirst :=
          if s.errFirst.toWord = 0 then { op := cw.extractLsb' 24 8, code := some .illegalCommand } else s.errFirst }

/-- A write to `CMD` executes the word (R100). There is no program counter; CMD holds the word, and the action is
taken off the list. -/
def Obligations.StepRunsDecodedCommand : Prop :=
  ∀ (s : State) (rest : List HostAction) (cw : Word) (i : Instr), s.hostIn = .write 0x000 4 cw :: rest →
    decode cw = .ok i →
    step s = exec i { s with hostIn := rest, cmd := cw } ∧ opcode i = cw.extractLsb' 24 8

/-- The words of the register map R70 (R24, R28 to R37, R73 to R76). Reads change nothing but `BPTR`, and that only by
a `BDATA` read that delivers a word (R76, R80). The record of reads and the idle step are the model's (log entries 1,
2), BLEN of a buffer of 2^32 bits or more and BPTR past its last value free values (log entry 4). -/
def Obligations.HostReads : Prop :=
  (∀ (s : State) (addr : BitVec 12) (size : Nat) (rest : List HostAction), s.hostIn = .read addr size :: rest →
    step s = .next
      { s with
        hostIn := rest
        hostOut := regRead s (hostReg addr size) :: s.hostOut
        bptr :=
          if size = 4 ∧ addr = 0x04C ∧ s.bptr.toNat < ((s.bufAt s.bsel).length + 31) / 32 then
            (if s.bptr.toNat + 1 < 2 ^ 32 then s.bptr + 1 else Config.bptrPastEnd)
          else s.bptr }) ∧
  (∀ s : State,
    let errWord := fun r : ErrReg =>
      BitVec.ofNat 32 (r.op.toNat * 2 ^ 8 +
        match r.code with
        | none => 0x00
        | some .invalidParameter => 0x10
        | some .invalidKeySize => 0x11
        | some .invalidBlockSize => 0x12
        | some .invalidIV => 0x13
        | some .notSupported => 0x14
        | some .bufferOverflow => 0x15
        | some .illegalCommand => 0x16
        | some .invalidState => 0x17
        | some .invalidEncoding => 0x20
        | some .invalidEnvelope => 0x21
        | some .corruptPadding => 0x30
        | some .corruptTag => 0x31
        | some .generatorNotSeeded => 0x40
        | some .unsupportedCipher => 0x50
        | some .unsupportedMode => 0x51
        | some .badPassword => 0x60)
    let x := s.bufAt s.bsel
    let p := s.bptr.toNat
    (∀ r ∈ ([
      (0x000, s.cmd),
      (0x004, BitVec.ofNat 32 (s.status.busy.toNat + 2 * s.status.done.toNat + 4 * s.status.err.toNat +
        8 * s.status.errs.toNat)),
      (0x008, errWord s.err),
      (0x00C, errWord s.errFirst),
      (0x010, s.cmdCnt),
      (0x014, BitVec.ofNat 32 s.defParanoia.toNat),
      (0x018, 0x53544731),
      (0x040, BitVec.ofNat 32 s.bsel.val),
      (0x044, if x.length < 2 ^ 32 then BitVec.ofNat 32 x.length else Config.blenTooLong x.length),
      (0x048, s.bptr),
      (0x04C, if p < (x.length + 31) / 32 then BitVec.ofNat 32 (bitsToNat (((x ++ zeros 32).drop (32 * p)).take 32))
        else 0),
      (0x050, BitVec.ofNat 32 (
        (match s.pbk.state with
          | .idle => 0
          | .run => 1
          | .done => 2) +
        2 ^ 4 * (match s.pbk.alg with
          | .sha256 => 0
          | .sha512 => 1))),
      (0x054, BitVec.ofNat 32 s.pbk.k),
      (0x058, BitVec.ofNat 32 s.pbk.i),
      (0x060, s.env.v),
      (0x064, s.env.iter),
      (0x068, s.env.ks),
      (0x06C, s.env.ts),
      (0x070, s.env.mode),
      (0x074, s.env.cipher),
      (0x080, s.timeLo),
      (0x084, s.timeHi)] : List (BitVec 12 × Word)), regRead s (hostReg r.1 4) = r.2) ∧
    (∀ i : ScalIx, regRead s (hostReg (BitVec.ofNat 12 (0x020 + 4 * i.val)) 4) = s.scalAt i) ∧
    (∀ i : Fin 16, regRead s (hostReg (BitVec.ofNat 12 (0x0C0 + 4 * i.val)) 4) = 0)) ∧
  (∀ s : State, s.hostIn = [] → step s = .next s)

/-- R71 and R72: accesses that reach no register, and writes to read-only registers. -/
def Obligations.UnreachableAccess : Prop :=
  (∀ (s : State) (a : BitVec 12) (size : Nat) (v : Word) (rest : List HostAction),
    (size ≠ 4 ∨ a.toNat % 4 ≠ 0 ∨ a.toNat = 0x01C ∨ a.toNat = 0x05C ∨ a.toNat = 0x078 ∨ a.toNat = 0x07C ∨
      (0x088 ≤ a.toNat ∧ a.toNat ≤ 0x0BC) ∨ 0x100 ≤ a.toNat) →
    (s.hostIn = .read a size :: rest → step s = .next { s with hostIn := rest, hostOut := 0 :: s.hostOut }) ∧
    (s.hostIn = .write a size v :: rest → step s = .next { s with hostIn := rest })) ∧
  (∀ (s : State) (a : BitVec 12) (v : Word) (rest : List HostAction),
    a ∈ ([0x004, 0x008, 0x010, 0x018, 0x050, 0x054, 0x058] : List (BitVec 12)) →
    s.hostIn = .write a 4 v :: rest → step s = .next { s with hostIn := rest })

/-- The buffer port, R73 to R75. BPTR past its last value is a free value (log entry 4). -/
def Obligations.PortWrites : Prop :=
  ∀ (s : State) (v : Word) (rest : List HostAction),
    (s.hostIn = .write 0x040 4 v :: rest →
      step s = .next { s with hostIn := rest, bsel := Fin.ofNat 16 v.toNat, bptr := 0 }) ∧
    (s.hostIn = .write 0x044 4 v :: rest →
      step s = .next
        (if fitsBuf v.toNat then { s.setBuf s.bsel (List.replicate v.toNat false) with hostIn := rest, bptr := 0 }
          else { s with hostIn := rest })) ∧
    (s.hostIn = .write 0x048 4 v :: rest → step s = .next { s with hostIn := rest, bptr := v }) ∧
    (s.hostIn = .write 0x04C 4 v :: rest →
      if s.bptr.toNat < ((s.bufAt s.bsel).length + 31) / 32 then
        ∃ y : Bits,
          step s = .next
            { s.setBuf s.bsel y with
              hostIn := rest
              bptr := if s.bptr.toNat + 1 < 2 ^ 32 then s.bptr + 1 else Config.bptrPastEnd } ∧
          y.length = (s.bufAt s.bsel).length ∧
          ∀ k < y.length,
            y[k]? =
              if 32 * s.bptr.toNat ≤ k ∧ k < 32 * s.bptr.toNat + 32 then (bvToBits v)[k - 32 * s.bptr.toNat]?
              else (s.bufAt s.bsel)[k]?
      else step s = .next { s with hostIn := rest })

/-- Plain register writes (R24, R31, R32, R34, R35), the acknowledgement of errors (R457), reset from any state
(R490). R470 lets the platform change TIME and NOISE between commands; that its update of TIME is one action for both
halves, and that of NOISE one for all sixteen words, is DEDUCED (log entry 7). The two fields reset keeps are the
model's own (log entries 1, 2, 8). -/
def Obligations.RegisterWrites : Prop :=
  ∀ (s : State) (v : Word) (rest : List HostAction),
    (s.hostIn = .write 0x00C 4 v :: rest →
      step s = .next
        { s with hostIn := rest, errFirst := { op := 0, code := none }, status := { s.status with errs := false } }) ∧
    (s.hostIn = .write 0x014 4 v :: rest →
      step s = .next
        { s with
          hostIn := rest
          defParanoia := if v.toNat % 16 ≤ 10 then BitVec.ofNat 4 (v.toNat % 16) else s.defParanoia }) ∧
    (∀ i : ScalIx, s.hostIn = .write (BitVec.ofNat 12 (0x020 + 4 * i.val)) 4 v :: rest →
      step s = .next { s.setScal i v with hostIn := rest }) ∧
    (s.hostIn = .write 0x060 4 v :: rest → step s = .next { s with hostIn := rest, env := { s.env with v := v } }) ∧
    (s.hostIn = .write 0x064 4 v :: rest → step s = .next { s with hostIn := rest, env := { s.env with iter := v } }) ∧
    (s.hostIn = .write 0x068 4 v :: rest → step s = .next { s with hostIn := rest, env := { s.env with ks := v } }) ∧
    (s.hostIn = .write 0x06C 4 v :: rest → step s = .next { s with hostIn := rest, env := { s.env with ts := v } }) ∧
    (s.hostIn = .write 0x070 4 v :: rest → step s = .next { s with hostIn := rest, env := { s.env with mode := v } }) ∧
    (s.hostIn = .write 0x074 4 v :: rest → step s = .next { s with hostIn := rest, env := { s.env with cipher := v } }) ∧
    (s.hostIn = .write 0x080 4 v :: rest → step s = .next { s with hostIn := rest, timeLo := v }) ∧
    (s.hostIn = .write 0x084 4 v :: rest → step s = .next { s with hostIn := rest, timeHi := v }) ∧
    (∀ i : Fin 16, s.hostIn = .write (BitVec.ofNat 12 (0x0C0 + 4 * i.val)) 4 v :: rest →
      step s = .next { s with hostIn := rest, noise := s.noise.set i.val v i.isLt }) ∧
    (∀ i : Fin 16, s.hostIn = .read (BitVec.ofNat 12 (0x0C0 + 4 * i.val)) 4 :: rest →
      step s = .next { s with hostIn := rest, hostOut := 0 :: s.hostOut }) ∧
    (∀ now : BitVec 64, s.hostIn = .setTime now :: rest →
      ∃ t, step s = .next t ∧ t.now = now ∧
        { t with timeLo := s.timeLo, timeHi := s.timeHi } = { s with hostIn := rest }) ∧
    (∀ noise : Vector Word 16, s.hostIn = .setNoise noise :: rest →
      step s = .next { s with hostIn := rest, noise := noise }) ∧
    (s.hostIn = .reset :: rest → step s = .next { State.reset with hostIn := rest, hostOut := s.hostOut })

/-- The two host macros of R115 over the buffer port R73 to R76: what is loaded is what is there, and what is read
back is the word representation of R20. -/
def Obligations.LoadThenRead : Prop :=
  ∀ (s : State) (n : BufIx) (x : Bits) (rest : List HostAction), fitsBuf x.length = true → x.length < 2 ^ 32 →
    s.hostIn = macroLoadB n x ++ macroReadB n x.length ++ rest →
    runSteps (macroLoadB n x ++ macroReadB n x.length).length s = .next
      { s.setBuf n x with
        hostIn := rest, bsel := n, bptr := BitVec.ofNat 32 (wordCount x)
        hostOut := ((List.range (wordCount x)).map (wordAt x)).reverse ++ BitVec.ofNat 32 x.length :: s.hostOut }

/-- R40, R85: slots, the engine's secret fields and the generator have no address. -/
def Obligations.SecretsHidden : Prop :=
  ∀ s t : State, SameToHost s t → SameRequest (takeAction s) (takeAction t)

/-- The table of R491. The words are those of addresses 0x000, 0x004, …, 0x0FC. -/
def Obligations.ResetState : Prop :=
  (List.range 64).map (fun w => regRead State.reset (regAtIndex w)) =
    ([0, 0, 0, 0, 0, 6, 0x53544731, 0, 0, 0, 0, 0, 0, 0, 0, 0] : List Word) ++
    [0, 0, 0, 0, 0, 1, 0, 0, 1, 1000, 128, 64, 0, 0, 0, 0] ++ List.replicate 32 0 ∧
  (∀ b, State.reset.bufAt b = []) ∧ (∀ i, State.reset.keyAt i = none) ∧ (∀ i, State.reset.hashAt i = none) ∧
  State.reset.rk = none ∧ (∀ i : Fin 16, State.reset.noise.get i = 0) ∧
  State.reset.pbk = { state := .idle, alg := .sha256, pw := [], salt := [], count := 0, length := 0, k := 1, i := 0,
                      last := [], acc := [], out := [] } ∧
  State.reset.rng.pools = [{ ctx := { h := iv256, buf := [], len := 0 }, entropy := 0 }] ∧
  State.reset.rng.poolStrength = 0 ∧ State.reset.rng.strength = 0 ∧ State.reset.rng.reseedCount = 0 ∧
  State.reset.rng.eventId = 0 ∧ (∀ tag : TagIx, State.reset.rng.robin.get tag = 0) ∧
  State.reset.rng.nextReseed = 0 ∧ State.reset.rng.key = 0 ∧ State.reset.rng.ctr = ⟨0, 0, 0, 0⟩ ∧
  State.reset.rng.cipher = none

/-- The invariants of the four statements below hold at reset. -/
def Obligations.ResetInvariants : Prop :=
  StateInv State.reset

/-- R29, R31, R32, R499 as an invariant of every step. -/
def Obligations.StepKeepsStatus : Prop :=
  ∀ s t : State, StatusInv s → step s = .next t → StatusInv t

/-- R25 and R26 as an invariant of every step. -/
def Obligations.StepKeepsSlots : Prop :=
  ∀ s t : State, SlotInv s → step s = .next t → SlotInv t

/-- R22 and R37 as an invariant of every step: no command makes a string longer than the capacity (R132), and the
engine's counters and phases agree (R243). -/
def Obligations.StepKeepsBuffers : Prop :=
  ∀ s t : State, BufferInv s → step s = .next t → BufferInv t

/-- The invariants R38 states for the generator, R325's r < npools, and R331's cipher, kept by every step. -/
def Obligations.StepKeepsGenerator : Prop :=
  ∀ s t : State, GeneratorInv s.rng → step s = .next t → GeneratorInv t.rng

/-- R450: no error stops the core. The two faults of the model stand for states R325 and R331 rule out (log entry 6).
-/
def Obligations.NoStepStops : Prop :=
  ∀ s : State, GeneratorInv s.rng → ∃ t, step s = .next t

/-- R456: error entry changes this and nothing else, for every command; on success the status writes are as said. -/
def Obligations.CommandEnds : Prop :=
  (∀ (i : Instr) (s t : State), exec i s = .next t →
    (t.status.err = true → ∃ e : Err,
      t =
        { s with
          buf := match errorBuffer i with
            | some b => s.buf.set b.val [] b.isLt
            | none => s.buf
          err := { op := opcode i, code := some e }
          status := { busy := false, done := true, err := true, errs := true }
          errFirst := if s.errFirst.toWord = 0 then { op := opcode i, code := some e } else s.errFirst
          cmdCnt := s.cmdCnt + 1 }) ∧
    (t.status.err = false →
      t.err = { op := opcode i, code := none } ∧ t.errFirst = s.errFirst ∧ t.cmdCnt = s.cmdCnt + 1 ∧
      t.status = { s.status with busy := false, done := true, err := false })) ∧
  (∀ (cw : Word) (s : State),
    illegalCommand (opByte cw) s =
      { s with
        err := { op := opByte cw, code := some .illegalCommand }
        status := { busy := false, done := true, err := true, errs := true }
        errFirst :=
          if s.errFirst.toWord = 0 then { op := opByte cw, code := some .illegalCommand } else s.errFirst
        cmdCnt := s.cmdCnt + 1 })

/-- Who writes what (R25, R26, R27, R37, R38, R131), for all commands at once. The core has no memory to speak of. -/
def Obligations.CommandFrame : Prop :=
  ∀ (i : Instr) (s t : State), exec i s = .next t → KeepsTheRest i s t

/-- R453, for every command. -/
def Obligations.ErrorsListed : Prop :=
  ∀ (i : Instr) (s t : State) (e : Err), (∀ b, (s.bufAt b).length < 2 ^ 32) → exec i s = .next t →
    t.status.err = true → t.err.code = some e → e ∈ errorsOf i

/-- The frame of the ends in which the statements about commands below are written (R100 step 6, R456). -/
def Obligations.ResultFrame : Prop :=
  ∀ (s : State) (op : Byte) (e : Err),
    (∀ (a : BufIx) (x : Bits),
      (s.wrote op a x).bufAt a = x ∧ (∀ b, b ≠ a → (s.wrote op a x).bufAt b = s.bufAt b) ∧
      s.wrote op a x =
        { s with
          buf := (s.wrote op a x).buf, cmdCnt := s.cmdCnt + 1, err := { op := op, code := none }
          status := { s.status with busy := false, done := true, err := false } }) ∧
    (∀ (a : ScalIx) (v : Word),
      (s.wroteScal op a v).scalAt a = v ∧ (∀ j, j ≠ a → (s.wroteScal op a v).scalAt j = s.scalAt j) ∧
      s.wroteScal op a v =
        { s with
          scal := (s.wroteScal op a v).scal, cmdCnt := s.cmdCnt + 1, err := { op := op, code := none }
          status := { s.status with busy := false, done := true, err := false } }) ∧
    (∀ a : BufIx,
      (s.failedTo op a e).bufAt a = [] ∧ (∀ b, b ≠ a → (s.failedTo op a e).bufAt b = s.bufAt b) ∧
      s.failedTo op a e =
        { s with
          buf := (s.failedTo op a e).buf, cmdCnt := s.cmdCnt + 1, err := { op := op, code := some e }
          status := { busy := false, done := true, err := true, errs := true }
          errFirst := if s.errFirst.toWord = 0 then { op := op, code := some e } else s.errFirst })

/-- R130 and R131, for every state. -/
def Obligations.SystemCommands : Prop :=
  ∀ s : State,
    exec .nop s = .next
      { s with
        cmdCnt := s.cmdCnt + 1, err := { op := 0x00, code := none }
        status := { s.status with busy := false, done := true, err := false } } ∧
    exec .zeroize s = .next
      { s with
        buf := Vector.replicate 16 [], scal := Vector.replicate 8 0, keys := Vector.replicate 4 none
        hashes := Vector.replicate 4 none, rk := none, pbk := PbkEngine.reset, env := ⟨1, 1000, 128, 64, 0, 0⟩
        bsel := 0, bptr := 0, cmdCnt := s.cmdCnt + 1, err := { op := 0x0F, code := none }
        status := { s.status with busy := false, done := true, err := false } }

/-- R133 to R140, with the capacity test of R132: results and errors, for every operand. -/
def Obligations.BitArrayCommands : Prop :=
  ∀ s : State,
    (∀ a b, exec (.baLen a b) s =
      if (s.bufAt b).length < 2 ^ 32 then .next (s.wroteScal 0x01 a (BitVec.ofNat 32 (s.bufAt b).length))
      else .next (s.fail 0x01 .invalidParameter)) ∧
    (∀ a b c d, exec (.baSlice a b c d) s =
      if s.natAt c ≤ s.natAt d ∧ s.natAt d ≤ (s.bufAt b).length then
        .next (s.wrote 0x02 a (((s.bufAt b).drop (s.natAt c)).take (s.natAt d - s.natAt c)))
      else .next (s.failedTo 0x02 a .invalidParameter)) ∧
    (∀ a b c d, exec (.baExtract a b c d) s =
      if s.natAt d ≤ 32 ∧ s.natAt c + s.natAt d ≤ (s.bufAt b).length then
        .next (s.wroteScal 0x03 a (BitVec.ofNat 32 (bitsToNat (((s.bufAt b).drop (s.natAt c)).take (s.natAt d)))))
      else .next (s.fail 0x03 .invalidParameter)) ∧
    (∀ a b c, exec (.baConcat a b c) s =
      if fitsBuf ((s.bufAt b).length + (s.bufAt c).length) then .next (s.wrote 0x04 a (s.bufAt b ++ s.bufAt c))
      else .next (s.failedTo 0x04 a .bufferOverflow)) ∧
    (∀ a b c, exec (.baClamp a b c) s = .next (s.wrote 0x05 a ((s.bufAt b).take (s.natAt c)))) ∧
    (∀ a b c, exec (.baEqual a b c) s =
      .next (s.wroteScal 0x06 a (if s.bufAt b = s.bufAt c then 1 else 0))) ∧
    (∀ a b c high, exec (.baPartial a b c high) s =
      if s.natAt c ≤ 32 then
        .next (s.wrote 0x07 a
          (if high then (bvToBits (s.scalAt b)).take (s.natAt c) else (bvToBits (s.scalAt b)).drop (32 - s.natAt c)))
      else .next (s.failedTo 0x07 a .invalidParameter)) ∧
    (∀ a b, exec (.baGetPartial a b) s =
      .next (s.wroteScal 0x08 a
        (if (s.bufAt b).length = 0 then 0 else BitVec.ofNat 32 (((s.bufAt b).length - 1) % 32 + 1))))

/-- R143, R144, R146, R147: each output character or group by its index. -/
def Obligations.CodecCommands : Prop :=
  ∀ s : State,
    (∀ a b, exec (.hexDec a b) s =
      if (s.bufAt b).length % 8 ≠ 0 then .next (s.failedTo 0x10 a .invalidParameter)
      else if (bytesOf (s.bufAt b)).all (fun c => (hexVal c).isSome) then
        .next (s.wrote 0x10 a ((bytesOf (s.bufAt b)).flatMap fun c => natToBits 4 ((hexVal c).getD 0)))
      else .next (s.failedTo 0x10 a .invalidEncoding)) ∧
    (∀ a b, exec (.hexEnc a b) s =
      if (s.bufAt b).length % 4 ≠ 0 then .next (s.failedTo 0x11 a .invalidParameter)
      else if fitsBuf (2 * (s.bufAt b).length) then
        .next (s.wrote 0x11 a (ofBytes ((List.range ((s.bufAt b).length / 4)).map fun i =>
          hexLower (bitsToNat (((s.bufAt b).drop (4 * i)).take 4)))))
      else .next (s.failedTo 0x11 a .bufferOverflow)) ∧
    (∀ a b url, exec (.b64Dec a b url) s =
      let t := (bytesOf (s.bufAt b)).filter fun c =>
        !([0x09, 0x0A, 0x0B, 0x0C, 0x0D, 0x20, 0x3D] : List Byte).contains c
      if (s.bufAt b).length % 8 ≠ 0 then .next (s.failedTo 0x12 a .invalidParameter)
      else if t.all (fun c => (b64Val url c).isSome) then
        .next (s.wrote 0x12 a
          ((t.flatMap fun c => natToBits 6 ((b64Val url c).getD 0)).take (8 * (6 * t.length / 8))))
      else .next (s.failedTo 0x12 a .invalidEncoding)) ∧
    (∀ a b url nopad, exec (.b64Enc a b url nopad) s =
      let m := ((s.bufAt b).length + 5) / 6
      let pads := if nopad then 0 else (4 - m % 4) % 4
      if (s.bufAt b).length % 8 ≠ 0 then .next (s.failedTo 0x13 a .invalidParameter)
      else if fitsBuf (8 * (m + pads)) then
        .next (s.wrote 0x13 a (ofBytes ((List.range m).map (fun i =>
          b64Char url (bitsToNat (((s.bufAt b ++ zeros 5).drop (6 * i)).take 6))) ++ List.replicate pads 0x3D)))
      else .next (s.failedTo 0x13 a .bufferOverflow))

/-- R174, R182, R184. -/
def Obligations.AesCommands : Prop :=
  ∀ s : State,
    (∀ a b, exec (.aesKey a b) s =
      if (s.bufAt b).length ∈ [128, 192, 256] then .next ((s.setKey a (aesContext (s.bufAt b))).succeed 0x20)
      else .next (s.fail 0x20 .invalidKeySize)) ∧
    (∀ a b e, exec (.aesEnc a b e) s =
      match s.keyAt e with
      | none => .next (s.failedTo 0x21 a .invalidState)
      | some k =>
        if (s.bufAt b).length = 128 then .next (s.wrote 0x21 a (bvToBits (aesEncrypt k (bitsToBv 128 (s.bufAt b)))))
        else .next (s.failedTo 0x21 a .invalidBlockSize)) ∧
    (∀ a b e, exec (.aesDec a b e) s =
      match s.keyAt e with
      | none => .next (s.failedTo 0x22 a .invalidState)
      | some k =>
        if (s.bufAt b).length = 128 then .next (s.wrote 0x22 a (bvToBits (aesDecrypt k (bitsToBv 128 (s.bufAt b)))))
        else .next (s.failedTo 0x22 a .invalidBlockSize))

/-- R212 to R215, with the length test of R210 and R211. -/
def Obligations.HashCommands : Prop :=
  ∀ s : State,
    (∀ a alg, exec (.hashReset a alg) s = .next ((s.setHash a
      (match alg with
        | .sha256 => .sha256 { h := iv256, buf := [], len := 0 }
        | .sha512 => .sha512 { h := iv512, buf := [], len := 0 })).succeed 0x30)) ∧
    (∀ a b, exec (.hashUpdate a b) s =
      match s.hashAt a with
      | none => .next (s.fail 0x31 .invalidState)
      | some (.sha256 c) =>
        if c.len + (s.bufAt b).length < 2 ^ 64 then
          .next ((s.setHash a (.sha256 (shaAbsorb sha256P c (s.bufAt b)))).succeed 0x31)
        else .next (s.fail 0x31 .invalidParameter)
      | some (.sha512 c) =>
        if c.len + (s.bufAt b).length < 2 ^ 64 then
          .next ((s.setHash a (.sha512 (shaAbsorb sha512P c (s.bufAt b)))).succeed 0x31)
        else .next (s.fail 0x31 .invalidParameter)) ∧
    (∀ a e, exec (.hashFinal a e) s =
      match s.hashAt e with
      | none => .next (s.failedTo 0x32 a .invalidState)
      | some (.sha256 c) =>
        .next (((s.setBuf a (shaFinish sha256P c)).setHash e (.sha256 { h := iv256, buf := [], len := 0 })).succeed 0x32)
      | some (.sha512 c) =>
        .next (((s.setBuf a (shaFinish sha512P c)).setHash e (.sha512 { h := iv512, buf := [], len := 0 })).succeed 0x32)) ∧
    (∀ a b, exec (.hashDigest a b .sha256) s = .next (s.wrote 0x33 a (shaDigest sha256P (s.bufAt b)))) ∧
    (∀ a b, exec (.hashDigest a b .sha512) s = .next (s.wrote 0x33 a (shaDigest sha512P (s.bufAt b))))

/-- R232 with R230 written out, R238 with R237. -/
def Obligations.MacCommands : Prop :=
  ∀ s : State,
    (∀ a b c alg, exec (.hmac a b c alg) s =
      let key := s.bufAt b
      let k := padr (if hashBlockBits alg < key.length then hashOf alg key else key) (hashBlockBits alg)
      let inner := xorBits k (ofBytes (List.replicate (hashBlockBits alg / 8) 0x36))
      let outer := xorBits k (ofBytes (List.replicate (hashBlockBits alg / 8) 0x5C))
      .next (s.wrote 0x40 a (hashOf alg (outer ++ hashOf alg (inner ++ s.bufAt c))))) ∧
    (∀ a b c d e alg, exec (.pbkdf2 a b c d e alg) s =
      if 2 ^ 31 ≤ s.natAt d ∨ 2 ^ 31 ≤ s.natAt e then .next (s.failedTo 0x41 a .invalidParameter)
      else if fitsBuf (s.natAt e) then
        .next (s.wrote 0x41 a (pbkdf2Of alg (s.bufAt b) (s.bufAt c) (s.natAt d) (s.natAt e)))
      else .next (s.failedTo 0x41 a .bufferOverflow))

/-- R241, R242, R244. -/
def Obligations.EngineCommands : Prop :=
  ∀ s : State,
    (∀ b c d e alg, exec (.pbkdf2Init b c d e alg) s =
      if 2 ^ 31 ≤ s.natAt d ∨ 2 ^ 31 ≤ s.natAt e then .next (s.fail 0x42 .invalidParameter)
      else if fitsBuf (s.natAt e) then
        .next ((s.setPbk
          { state := if 0 < s.natAt e then .run else .done, alg := alg, pw := s.bufAt b, salt := s.bufAt c
            count := s.natAt d, length := s.natAt e, k := 1, i := 0, last := [], acc := [], out := [] }).succeed 0x42)
      else .next (s.fail 0x42 .bufferOverflow)) ∧
    (∀ a b, exec (.pbkdf2Step a b) s =
      if s.pbk.state = .idle then .next (s.fail 0x43 .invalidState)
      else
        .next (((s.setPbk (pbkSteps (s.natAt b) s.pbk)).setScal a
          (if (pbkSteps (s.natAt b) s.pbk).state = .done then 1 else 0)).succeed 0x43)) ∧
    (∀ a, exec (.pbkdf2Read a) s =
      if s.pbk.state = .done then
        .next (((s.setBuf a (s.pbk.out.take s.pbk.length)).setPbk PbkEngine.reset).succeed 0x44)
      else .next (s.failedTo 0x44 a .invalidState))

/-- R261 to R264: the order of the tests, the pad, the chain, the validation of every pad byte. -/
def Obligations.CbcCommands : Prop :=
  ∀ (s : State) (a b c d : BufIx) (e : KeyIx),
    (exec (.cbcEnc a b c d e) s =
      match s.keyAt e with
      | none => .next (s.failedTo 0x50 a .invalidState)
      | some k =>
        let n := (s.bufAt b).length / 8
        let pad := List.replicate (16 - n % 16) (BitVec.ofNat 8 (16 - n % 16))
        if (s.bufAt d).length ≠ 0 then .next (s.failedTo 0x50 a .notSupported)
        else if (s.bufAt c).length ≠ 128 then .next (s.failedTo 0x50 a .invalidIV)
        else if (s.bufAt b).length % 8 ≠ 0 then .next (s.failedTo 0x50 a .invalidParameter)
        else if fitsBuf (128 * (n / 16 + 1)) then
          .next (s.wrote 0x50 a ((cbcChainEnc (aesEncrypt k) (bitsToBv 128 (s.bufAt c))
            ((splitEvery 128 (s.bufAt b ++ ofBytes pad)).map (bitsToBv 128))).flatMap bvToBits))
        else .next (s.failedTo 0x50 a .bufferOverflow)) ∧
    (exec (.cbcDec a b c d e) s =
      match s.keyAt e with
      | none => .next (s.failedTo 0x51 a .invalidState)
      | some k =>
        let n := (s.bufAt b).length / 8
        let m := (cbcChainDec (aesDecrypt k) (bitsToBv 128 (s.bufAt c))
          ((splitEvery 128 (s.bufAt b)).map (bitsToBv 128))).flatMap bvToBits
        let p := (byteAt m (n - 1)).toNat
        if (s.bufAt d).length ≠ 0 then .next (s.failedTo 0x51 a .notSupported)
        else if (s.bufAt c).length ≠ 128 then .next (s.failedTo 0x51 a .invalidIV)
        else if (s.bufAt b).length = 0 ∨ (s.bufAt b).length % 128 ≠ 0 then .next (s.failedTo 0x51 a .corruptPadding)
        else if 1 ≤ p ∧ p ≤ 16 ∧ ∀ j < p, (byteAt m (n - 1 - j)).toNat = p then
          .next (s.wrote 0x51 a (m.take (m.length - 8 * p)))
        else .next (s.failedTo 0x51 a .corruptPadding))

/-- R270, R271, R276, R277, over the tag of R273 and the counter mode of R274. -/
def Obligations.CcmCommands : Prop :=
  ∀ (s : State) (a b c d : BufIx) (e : KeyIx) (tl : Nat),
    let width := fun ol : Nat => max (if ol < 2 ^ 16 then 2 else if ol < 2 ^ 24 then 3 else 4)
      (15 - (s.bufAt c).length / 8)
    let nonce := fun ol : Nat => (s.bufAt c).take (8 * (15 - width ol))
    (exec (.ccmEnc a b c d e tl) s =
      match s.keyAt e with
      | none => .next (s.failedTo 0x52 a .invalidState)
      | some k =>
        let ol := (s.bufAt b).length / 8
        if (s.bufAt c).length % 8 ≠ 0 ∨ (s.bufAt d).length % 8 ≠ 0 ∨ (s.bufAt b).length % 8 ≠ 0 then
          .next (s.failedTo 0x52 a .invalidParameter)
        else if (s.bufAt c).length < 56 then .next (s.failedTo 0x52 a .invalidIV)
        else if tl < 2 ∨ 8 < tl ∨ 2 ^ 32 ≤ ol then .next (s.failedTo 0x52 a .invalidParameter)
        else if fitsBuf ((s.bufAt b).length + 16 * tl) then
          .next (s.wrote 0x52 a (ccmCtr (aesEncrypt k) (nonce ol) (width ol) (s.bufAt b) ++
            xorBits (ccmTag (aesEncrypt k) (s.bufAt b) (nonce ol) (s.bufAt d) (width ol) (16 * tl))
              (bvToBits (aesEncrypt k (blockOf (ccmA (nonce ol) (width ol) 0))))))
        else .next (s.failedTo 0x52 a .bufferOverflow)) ∧
    (exec (.ccmDec a b c d e tl) s =
      match s.keyAt e with
      | none => .next (s.failedTo 0x53 a .invalidState)
      | some k =>
        let body := (s.bufAt b).take ((s.bufAt b).length - 16 * tl)
        let tag := (s.bufAt b).drop ((s.bufAt b).length - 16 * tl)
        let ol := body.length / 8
        let p := ccmCtr (aesEncrypt k) (nonce ol) (width ol) body
        if (s.bufAt c).length % 8 ≠ 0 ∨ (s.bufAt d).length % 8 ≠ 0 ∨ (s.bufAt b).length % 8 ≠ 0 then
          .next (s.failedTo 0x53 a .invalidParameter)
        else if (s.bufAt c).length < 56 then .next (s.failedTo 0x53 a .invalidIV)
        else if tl < 2 ∨ 8 < tl then .next (s.failedTo 0x53 a .invalidParameter)
        else if (s.bufAt b).length < 16 * tl then .next (s.failedTo 0x53 a .corruptTag)
        else if 2 ^ 32 ≤ ol then .next (s.failedTo 0x53 a .invalidParameter)
        else if xorBits tag (bvToBits (aesEncrypt k (blockOf (ccmA (nonce ol) (width ol) 0)))) =
            ccmTag (aesEncrypt k) p (nonce ol) (s.bufAt d) (width ol) (16 * tl) then
          .next (s.wrote 0x53 a p)
        else .next (s.failedTo 0x53 a .corruptTag))

/-- R290, R297, R298, over the bulk pass and final block of R294 and R296. -/
def Obligations.Ocb2Commands : Prop :=
  ∀ (s : State) (a b c d : BufIx) (e : KeyIx) (tl : Nat),
    (exec (.ocb2Enc a b c d e tl) s =
      match s.keyAt e with
      | none => .next (s.failedTo 0x54 a .invalidState)
      | some k =>
        if (s.bufAt c).length ≠ 128 then .next (s.failedTo 0x54 a .invalidIV)
        else if tl ∉ [4, 6, 8] then .next (s.failedTo 0x54 a .invalidParameter)
        else if fitsBuf ((s.bufAt b).length + 16 * tl) then
          .next (s.wrote 0x54 a (ocbSeal k (s.bufAt b) (s.bufAt c) (s.bufAt d) (16 * tl)))
        else .next (s.failedTo 0x54 a .bufferOverflow)) ∧
    (exec (.ocb2Dec a b c d e tl) s =
      match s.keyAt e with
      | none => .next (s.failedTo 0x55 a .invalidState)
      | some k =>
        let body := (s.bufAt b).take ((s.bufAt b).length - 16 * tl)
        let r := ocbBulkDec (aesDecrypt k) (times2 (aesEncrypt k (bitsToBv 128 (s.bufAt c)))) 0 (bulkOf body)
        let n := (finalOf body).length
        let x := aesEncrypt k (r.delta ^^^ BitVec.ofNat 128 n) ^^^ blockOf (finalOf body)
        if (s.bufAt c).length ≠ 128 then .next (s.failedTo 0x55 a .invalidIV)
        else if tl ∉ [4, 6, 8] then .next (s.failedTo 0x55 a .invalidParameter)
        else if (s.bufAt b).length < 16 * tl then .next (s.failedTo 0x55 a .corruptTag)
        else if (bvToBits (ocbTag (aesEncrypt k) r.delta (r.sum ^^^ x) (s.bufAt d))).take (16 * tl) =
            (s.bufAt b).drop ((s.bufAt b).length - 16 * tl) then
          .next (s.wrote 0x55 a (r.out.flatMap bvToBits ++ (bvToBits x).take n))
        else .next (s.failedTo 0x55 a .corruptTag))

/-- R301, R309, R310, over the counter mode and tag of R304 and R307. -/
def Obligations.GcmCommands : Prop :=
  ∀ (s : State) (a b c d : BufIx) (e : KeyIx) (tl : Nat),
    (exec (.gcmEnc a b c d e tl) s =
      match s.keyAt e with
      | none => .next (s.failedTo 0x56 a .invalidState)
      | some k =>
        let h := aesEncrypt k 0
        let y := gcmCtr (aesEncrypt k) (gcmJ0 h (s.bufAt c)) (blocks (s.bufAt b))
        if tl ∉ [4, 6, 8] then .next (s.failedTo 0x56 a .invalidParameter)
        else if (s.bufAt c).length = 0 then .next (s.failedTo 0x56 a .invalidIV)
        else if fitsBuf ((s.bufAt b).length + 16 * tl) then
          .next (s.wrote 0x56 a (y ++ gcmTag (aesEncrypt k) h (gcmJ0 h (s.bufAt c)) (s.bufAt d) y (16 * tl)))
        else .next (s.failedTo 0x56 a .bufferOverflow)) ∧
    (exec (.gcmDec a b c d e tl) s =
      match s.keyAt e with
      | none => .next (s.failedTo 0x57 a .invalidState)
      | some k =>
        let h := aesEncrypt k 0
        let body := (s.bufAt b).take ((s.bufAt b).length - 16 * tl)
        if tl ∉ [4, 6, 8] then .next (s.failedTo 0x57 a .invalidParameter)
        else if (s.bufAt c).length = 0 then .next (s.failedTo 0x57 a .invalidIV)
        else if (s.bufAt b).length < 16 * tl then .next (s.failedTo 0x57 a .corruptTag)
        else if gcmTag (aesEncrypt k) h (gcmJ0 h (s.bufAt c)) (s.bufAt d) body (16 * tl) =
            (s.bufAt b).drop ((s.bufAt b).length - 16 * tl) then
          .next (s.wrote 0x57 a (gcmCtr (aesEncrypt k) (gcmJ0 h (s.bufAt c)) (blocks body)))
        else .next (s.failedTo 0x57 a .corruptTag))

/-- R326 with the kinds, bodies, unit counts and default estimates of R327 to R329; the pool is that of R325. The
estimate is compared as a natural number (log entry 22). -/
def Obligations.EntropyCommands : Prop :=
  ∀ s : State, GeneratorInv s.rng →
    (∀ b c tag d,
      let est := if d then 1 else s.natAt c
      if s.rng.poolStrength.toNat + est < 2 ^ 32 ∧ fedBits s.rng tag + 192 + 32 < 2 ^ 64 then
        ∃ p, exec (.rngAddentN b c tag d) s = .next ((s.setRng p).succeed 0x60) ∧
          FedBy s.rng p s.now 1 (bvToBits (s.scalAt b)) 1 est tag
      else exec (.rngAddentN b c tag d) s = .next (s.fail 0x60 .invalidParameter)) ∧
    (∀ b c tag d,
      let n := (s.bufAt b).length / 32
      let est :=
        if d then ((List.range n).map fun i => Nat.size (bitsToNat (((s.bufAt b).drop (32 * i)).take 32))).sum
        else s.natAt c
      if (s.bufAt b).length % 32 = 0 ∧ s.rng.poolStrength.toNat + est < 2 ^ 32 ∧
          fedBits s.rng tag + 192 + (s.bufAt b).length < 2 ^ 64 then
        ∃ p, exec (.rngAddentW b c tag d) s = .next ((s.setRng p).succeed 0x61) ∧
          FedBy s.rng p s.now 2 (s.bufAt b) n est tag
      else exec (.rngAddentW b c tag d) s = .next (s.fail 0x61 .invalidParameter)) ∧
    (∀ b c tag d,
      let n := (s.bufAt b).length / 8
      let est := if d then n else s.natAt c
      if (s.bufAt b).length % 8 = 0 ∧ s.rng.poolStrength.toNat + est < 2 ^ 32 ∧
          fedBits s.rng tag + 192 + (s.bufAt b).length < 2 ^ 64 then
        ∃ p, exec (.rngAddentS b c tag d) s = .next ((s.setRng p).succeed 0x62) ∧
          FedBy s.rng p s.now 3 (s.bufAt b) n est tag
      else exec (.rngAddentS b c tag d) s = .next (s.fail 0x62 .invalidParameter))

/-- R333 with R321, R323, R324 written out; R338 with R337. -/
def Obligations.GeneratorCommands : Prop :=
  ∀ s : State,
    let level := fun l : Nat => if l = 15 then s.defParanoia.toNat else l
    let bound := fun l : Nat => ([0, 48, 64, 96, 128, 192, 256, 384, 512, 768, 1024] : List Nat).getD (level l) 0
    let seeded := fun l : Nat => 0 < s.rng.strength.toNat ∧ bound l ≤ s.rng.strength.toNat
    let pooled := fun l : Nat => 0 < s.rng.poolStrength.toNat ∧ bound l ≤ s.rng.poolStrength.toNat
    let due := 80 < s.rng.pool0.entropy.toNat ∧ s.rng.nextReseed.toNat < s.now.toNat
    (∀ a l, exec (.rngIsReady a l) s =
      if 10 < level l then .next (s.fail 0x63 .invalidParameter)
      else .next (s.wroteScal 0x63 a (if seeded l then (if due then 2 else 1) else if pooled l then 2 else 0))) ∧
    (GeneratorInv s.rng → ∀ a c l,
      if 10 < level l then exec (.rngWords a c l) s = .next (s.failedTo 0x64 a .invalidParameter)
      else if fitsBuf (32 * s.natAt c) = false then exec (.rngWords a c l) s = .next (s.failedTo 0x64 a .bufferOverflow)
      else if ¬ seeded l ∧ ¬ pooled l then exec (.rngWords a c l) s = .next (s.failedTo 0x64 a .generatorNotSeeded)
      else
        ∃ (p : Prng) (k : AesCtx),
          p = (if seeded l then (if due then reseed false s.now s.noiseBits s.rng else s.rng)
            else reseed true s.now s.noiseBits s.rng) ∧
          p.cipher = some k ∧
          (generate (s.natAt c) { key := p.key, cipher := k, ctr := p.ctr }).1.length = 32 * s.natAt c ∧
          exec (.rngWords a c l) s = .next
            (((s.setBuf a (generate (s.natAt c) { key := p.key, cipher := k, ctr := p.ctr }).1).setRng
              (p.withGen (generate (s.natAt c) { key := p.key, cipher := k, ctr := p.ctr }).2)).succeed 0x64))

/-- R363 as a list of checks, R364 to R367; R373 over the grammar R370 and the names R371; the text of R372. The order
of a format error and the error of a value is DEDUCED from the pseudocode (log entry 15). -/
def Obligations.EnvelopeCommands : Prop :=
  ∀ s : State,
    let r := s.envRecord
    let key := fun (pw : Bits) (raw : Bool) =>
      aesContext (if raw then pw else pbkdf2Of .sha256 pw r.salt r.regs.iter.toNat r.regs.ks.toNat)
    (∀ a b raw, exec (.envDec a b raw) s =
      match firstFailing (envChecks r (s.bufAt b) raw) with
      | some e => .next (s.failedTo 0x70 a e)
      | none =>
        match
          (if r.regs.mode = 0 then ccmDecrypt (key (s.bufAt b) raw) r.ct r.iv r.adata r.regs.ts.toNat
            else if r.regs.mode = 1 then gcmDecrypt (key (s.bufAt b) raw) r.ct r.iv r.adata r.regs.ts.toNat
            else if r.regs.mode = 2 then ocbDecrypt (key (s.bufAt b) raw) r.ct r.iv r.adata r.regs.ts.toNat
            else cbcDecrypt (key (s.bufAt b) raw) r.ct r.iv r.adata) with
        | .ok x => .next (s.wrote 0x70 a x)
        | .error e => .next (s.failedTo 0x70 a e)) ∧
    (∀ b c raw, exec (.envEnc b c raw) s =
      match firstFailing (envChecks r (s.bufAt b) raw) with
      | some e => .next (s.failedTo 0x71 15 e)
      | none =>
        match
          (if r.regs.mode = 0 then ccmEncrypt (key (s.bufAt b) raw) (s.bufAt c) r.iv r.adata r.regs.ts.toNat
            else if r.regs.mode = 1 then gcmEncrypt (key (s.bufAt b) raw) (s.bufAt c) r.iv r.adata r.regs.ts.toNat
            else if r.regs.mode = 2 then ocbEncrypt (key (s.bufAt b) raw) (s.bufAt c) r.iv r.adata r.regs.ts.toNat
            else cbcEncrypt (key (s.bufAt b) raw) (s.bufAt c) r.iv r.adata) with
        | .ok x => .next (s.wrote 0x71 15 x)
        | .error e => .next (s.failedTo 0x71 15 e)) ∧
    (∀ b,
      let text := (bytesOf (s.bufAt b)).filter fun c => !([0x09, 0x0A, 0x0B, 0x0C, 0x0D, 0x20] : List Byte).contains c
      ((s.bufAt b).length % 8 ≠ 0 → exec (.envParse b) s = .next (s.fail 0x72 .invalidParameter)) ∧
      ((s.bufAt b).length % 8 = 0 → (∃ c ∈ bytesOf (s.bufAt b), 0x80 ≤ c.toNat) →
        exec (.envParse b) s = .next (s.fail 0x72 .invalidEnvelope)) ∧
      ((s.bufAt b).length % 8 = 0 → (∀ ps, ¬ IsEnvelope text ps) →
        exec (.envParse b) s = .next (s.fail 0x72 .invalidEnvelope)) ∧
      (∀ ps, (s.bufAt b).length % 8 = 0 → (∀ c ∈ bytesOf (s.bufAt b), c.toNat < 0x80) → IsEnvelope text ps →
        exec (.envParse b) s =
          match firstPairError ps with
          | some e => .next (s.fail 0x72 e)
          | none =>
            let q := recordOf ps
            .next ((((((s.setEnv q.regs).setBuf 12 q.adata).setBuf 13 q.iv).setBuf 14 q.salt).setBuf 15 q.ct).succeed
              0x72))) ∧
    (∀ a, exec (.envSer a) s =
      let text := printedText r (modeNames.getD r.regs.mode.toNat [])
      if r.regs.cipher ≠ 0 then .next (s.failedTo 0x73 a .unsupportedCipher)
      else if 3 < r.regs.mode.toNat then .next (s.failedTo 0x73 a .unsupportedMode)
      else if r.adata.length % 8 ≠ 0 ∨ r.iv.length % 8 ≠ 0 ∨ r.salt.length % 8 ≠ 0 ∨ r.ct.length % 8 ≠ 0 then
        .next (s.failedTo 0x73 a .invalidParameter)
      else if fitsBuf (8 * text.length) then .next (s.wrote 0x73 a (ofBytes text))
      else .next (s.failedTo 0x73 a .bufferOverflow))

/-- R394, R398, R403, R407, R408, and the pipelines R411, R413 written out. -/
def Obligations.LegacyCommands : Prop :=
  ∀ s : State,
    (∀ a b, exec (.md5 a b) s =
      if (s.bufAt b).length % 8 = 0 then .next (s.wrote 0x80 a (ofBytes (md5 (bytesOf (s.bufAt b)))))
      else .next (s.failedTo 0x80 a .invalidParameter)) ∧
    (∀ a b, exec (.crc32 a b) s =
      if (s.bufAt b).length % 8 = 0 then .next (s.wroteScal 0x81 a (crc32 (bytesOf (s.bufAt b))))
      else .next (s.fail 0x81 .invalidParameter)) ∧
    (∀ b c, exec (.rc2Key b c) s =
      if (s.bufAt b).length % 8 ≠ 0 ∨ (s.bufAt b).length = 0 ∨ 1024 < (s.bufAt b).length then
        .next (s.fail 0x82 .invalidKeySize)
      else if 1 ≤ s.natAt c ∧ s.natAt c ≤ 1024 then
        .next ((s.setRk (rc2Table (bytesOf (s.bufAt b)) (s.natAt c))).succeed 0x82)
      else .next (s.fail 0x82 .invalidParameter)) ∧
    (∀ a b, exec (.rc2Enc a b) s =
      match s.rk with
      | none => .next (s.failedTo 0x83 a .invalidState)
      | some k =>
        if (s.bufAt b).length = 64 then .next (s.wrote 0x83 a (rc2E k (s.bufAt b)))
        else .next (s.failedTo 0x83 a .invalidBlockSize)) ∧
    (∀ a b, exec (.rc2Dec a b) s =
      match s.rk with
      | none => .next (s.failedTo 0x84 a .invalidState)
      | some k =>
        if (s.bufAt b).length = 64 then .next (s.wrote 0x84 a (rc2D k (s.bufAt b)))
        else .next (s.failedTo 0x84 a .invalidBlockSize)) ∧
    (∀ a b c, exec (.legacyDec a b c) s =
      let k := rc2Table (md5 (bytesOf (s.bufAt b))) 64
      if (s.bufAt b).length % 8 ≠ 0 ∨ (s.bufAt c).length % 8 ≠ 0 then .next (s.failedTo 0x85 a .invalidParameter)
      else
        match b64DecodeBytes false (bytesOf (s.bufAt c)) with
        | none => .next (s.failedTo 0x85 a .badPassword)
        | some x =>
          let plain := bytesOf ((splitEvery 64 x).flatMap (rc2D k))
          if x.length = 0 ∨ x.length % 64 ≠ 0 then .next (s.failedTo 0x85 a .badPassword)
          else if plain.take 4 = legacyCheck (plain.drop 4) then
            .next (s.wrote 0x85 a (ofBytes ((plain.drop 4).rdropWhile fun y => y == 0)))
          else .next (s.failedTo 0x85 a .badPassword)) ∧
    (∀ a b c, exec (.legacyEnc a b c) s =
      let k := rc2Table (md5 (bytesOf (s.bufAt b))) 64
      let pt := bytesOf (s.bufAt c)
      let body := pt ++ List.replicate ((8 - (4 + pt.length) % 8) % 8) 0
      let text := b64EncodeBytes false false ((splitEvery 64 (ofBytes (legacyCheck body ++ body))).flatMap (rc2E k))
      if (s.bufAt b).length % 8 ≠ 0 ∨ (s.bufAt c).length % 8 ≠ 0 then .next (s.failedTo 0x86 a .invalidParameter)
      else if fitsBuf (8 * text.length) then .next (s.wrote 0x86 a (ofBytes text))
      else .next (s.failedTo 0x86 a .bufferOverflow))

/-- R432 written out over the byte positions of R431; R437, R438. -/
def Obligations.ContainerCommands : Prop :=
  ∀ s : State,
    (∀ a b c, exec (.enc0Dec a b c) s =
      if (s.bufAt b).length % 8 ≠ 0 ∨ (s.bufAt c).length % 8 ≠ 0 then .next (s.failedTo 0x90 a .invalidParameter)
      else
        match b64DecodeBytes false (bytesOf (s.bufAt c)) with
        | none => .next (s.failedTo 0x90 a .badPassword)
        | some d =>
          let n := d.length / 8
          if n < 100 ∨ (n - 84) % 16 ≠ 0 ∨ d.take 32 ≠ ofBytes [0x45, 0x4E, 0x43, 0x30] then
            .next (s.failedTo 0x90 a .badPassword)
          else if hmacOf .sha256 (pbkdf2Of .sha256 (s.bufAt b) ((d.drop 160).take 128) 50000 128)
              (d.take (8 * (n - 32))) ≠ d.drop (8 * (n - 32)) then
            .next (s.failedTo 0x90 a .badPassword)
          else
            match cbcDecrypt (aesContext (pbkdf2Of .sha256 (s.bufAt b) ((d.drop 32).take 128) 50000 128))
                ((d.drop 416).take (8 * (n - 84))) ((d.drop 288).take 128) [] with
            | .ok x => .next (s.wrote 0x90 a x)
            | .error _ => .next (s.failedTo 0x90 a .badPassword)) ∧
    (∀ a b c d e, exec (.dispatchDec a b c d e) s =
      if s.bufAt d ≠ ofBytes [0x41, 0x45, 0x53] ∧ s.bufAt d ≠ ofBytes [0x52, 0x43, 0x32] then
        .next (s.failedTo 0x91 a .unsupportedCipher)
      else if (s.bufAt b).length % 8 ≠ 0 ∨ (s.bufAt c).length % 8 ≠ 0 then .next (s.failedTo 0x91 a .invalidParameter)
      else
        match
          (if s.bufAt d = ofBytes [0x41, 0x45, 0x53] then enc0Decrypt (s.bufAt b) (s.bufAt c)
            else legacyDecrypt (s.bufAt b) (s.bufAt c)) with
        | .ok x => .next (s.wrote 0x91 a x)
        | .error _ => .next (s.failedTo 0x91 a .badPassword))

/-- R11, R20 and R77. -/
def Obligations.BitStringLaws : Prop :=
  (∀ n v : Nat, (natToBits n v).length = n ∧ bitsToNat (natToBits n v) = v % 2 ^ n) ∧
  (∀ x : Bits, natToBits x.length (bitsToNat x) = x) ∧
  (∀ x : Bits, x.length % 8 = 0 → ofBytes (bytesOf x) = x) ∧
  (∀ l : List Byte, bytesOf (ofBytes l) = l) ∧
  (∀ x y : Bits, wordCount x = wordCount y → partialCount x = partialCount y →
    (∀ i < wordCount x, wordAt x i = wordAt y i) → x = y)

/-- R141. -/
def Obligations.CodecRoundTrip : Prop :=
  (∀ x t : Bits, hexEncode x = .ok t → hexDecode t = .ok x) ∧
  (∀ (url nopad : Bool) (x t : Bits), b64Encode url nopad x = .ok t → b64Decode url t = .ok x) ∧
  (∀ t : Bits, t.length % 8 = 0 → (∃ c ∈ bytesOf t, hexVal c = none) → hexDecode t = .error .invalidEncoding) ∧
  (∀ (url : Bool) (t : Bits), t.length % 8 = 0 →
    (∃ c ∈ bytesOf t, isSpace c = false ∧ c ≠ 0x3D ∧ b64Val url c = none) → b64Decode url t = .error .invalidEncoding)

/-- R170, R171, R186 for the rounds of R180 and R183, R397. That the inverse is computed as a power is DEDUCED (log
entry 12). -/
def Obligations.TableForms : Prop :=
  (∀ x : Byte, sbox x = sboxFormula x ∧ invSbox (sbox x) = x) ∧
  (∀ a : Byte, a ≠ 0 → gmul a (ginv a) = 1) ∧
  (∀ (w : List Word) (s : AesState) (r : Nat), encRoundTables w s r = encRound w s r) ∧
  (∀ (dw : List Word) (s : AesState) (r : Nat), decRoundTables dw s r = decRoundEq dw s r) ∧
  encTable 0 0x00 = 0xc66363a5 ∧ encTable 0 0x01 = 0xf87c7c84 ∧ decTable 0 0x00 = 0x51f4a750 ∧
  (∀ (c : Word) (x : Byte), crcByteTable c x = crcByte c x)

/-- R185, for every context. -/
def Obligations.AesInverse : Prop :=
  ∀ (k : AesCtx) (x : Block), aesDecrypt k (aesEncrypt k x) = x ∧ aesEncrypt k (aesDecrypt k x) = x

/-- R183: for the context AES.KEY makes of any key. -/
def Obligations.AesEquivalentDecryption : Prop :=
  ∀ (key : Bits) (y : Block), isAesKeyLength key.length = true →
    aesDecryptEq (aesContext key) y = aesDecrypt (aesContext key) y

/-- R205, in its integer form: the root with its integer part q put back in front is the floor of the root of p times
a power of 2. -/
def Obligations.HashConstants : Prop :=
  let primes := (List.range 410).filter fun n => decide (2 ≤ n) && (List.range n).all fun d => decide (d < 2) || n % d != 0
  let root := fun (e w q v p : Nat) =>
    (q * 2 ^ w + v) ^ e ≤ p * 2 ^ (e * w) ∧ p * 2 ^ (e * w) < (q * 2 ^ w + v + 1) ^ e
  primes.length = 80 ∧ k256.length = 64 ∧ k512.length = 80 ∧
  (∀ x ∈ [iv256.a, iv256.b, iv256.c, iv256.d, iv256.e, iv256.f, iv256.g, iv256.h].zip primes,
    ∃ q < 5, root 2 32 q x.1.toNat x.2) ∧
  (∀ x ∈ [iv512.a, iv512.b, iv512.c, iv512.d, iv512.e, iv512.f, iv512.g, iv512.h].zip primes,
    ∃ q < 5, root 2 64 q x.1.toNat x.2) ∧
  (∀ x ∈ k256.zip primes, ∃ q < 8, root 3 32 q x.1.toNat x.2) ∧
  (∀ x ∈ k512.zip primes, ∃ q < 8, root 3 64 q x.1.toNat x.2)

/-- R210's consequence, as a law of contexts and of the four commands. -/
def Obligations.HashStreaming : Prop :=
  (∀ (c : ShaState 32) (x y : Bits), shaAbsorb sha256P (shaAbsorb sha256P c x) y = shaAbsorb sha256P c (x ++ y)) ∧
  (∀ (c : ShaState 64) (x y : Bits), shaAbsorb sha512P (shaAbsorb sha512P c x) y = shaAbsorb sha512P c (x ++ y)) ∧
  (∀ (s : State) (h : HashIx) (a b₁ b₂ : BufIx) (alg : HashAlg),
    (s.bufAt b₁).length + (s.bufAt b₂).length < 2 ^ 64 →
    ∃ s₁ s₂ s₃ s₄, exec (.hashReset h alg) s = .next s₁ ∧ exec (.hashUpdate h b₁) s₁ = .next s₂ ∧
      exec (.hashUpdate h b₂) s₂ = .next s₃ ∧ exec (.hashFinal a h) s₃ = .next s₄ ∧
      s₄.bufAt a = hashOf alg (s.bufAt b₁ ++ s.bufAt b₂) ∧ s₄.hashAt h = some (hashFresh alg))

/-- R208 on the length of the padded string and of the digest. -/
def Obligations.PaddedMessage : Prop :=
  (∀ c : ShaState 32, c.buf.length < 512 →
    (shaPadded sha256P c).length = if c.buf.length ≤ 447 then 512 else 1024) ∧
  (∀ c : ShaState 64, c.buf.length < 1024 →
    (shaPadded sha512P c).length = if c.buf.length ≤ 895 then 1024 else 2048) ∧
  (∀ (alg : HashAlg) (m : Bits), (hashOf alg m).length = match alg with | .sha256 => 256 | .sha512 => 512)

/-- R216. -/
def Obligations.Sha512Halves : Prop :=
  (∀ x y : BitVec 64,
    add64Halves (x.extractLsb' 32 32) (x.extractLsb' 0 32) (y.extractLsb' 32 32) (y.extractLsb' 0 32) =
      ((x + y).extractLsb' 32 32, (x + y).extractLsb' 0 32)) ∧
  (∀ (x : BitVec 64) (n : Nat), 0 < n → n < 64 →
    rotr64Halves (x.extractLsb' 32 32) (x.extractLsb' 0 32) n =
      ((x.rotateRight n).extractLsb' 32 32, (x.rotateRight n).extractLsb' 0 32)) ∧
  (∀ (block : Bits) (t : Nat), block.length = 1024 → t < 16 →
    (shaMessage sha512P block)[t]? = some (wordAt block (2 * t) ++ wordAt block (2 * t + 1)))

/-- R230, R231, R235, R237. -/
def Obligations.HmacAndPbkdf2Laws : Prop :=
  (∀ (alg : HashAlg) (key m : Bits), hashBlockBits alg < key.length →
    hmacOf alg key m = hmacOf alg (hashOf alg key) m) ∧
  (∀ (alg : HashAlg) (key m : Bits) (j : Nat), key.length + j ≤ hashBlockBits alg →
    hmacOf alg (key ++ zeros j) m = hmacOf alg key m) ∧
  (∀ (alg : HashAlg) (pw salt : Bits) (count n : Nat), (pbkdf2Of alg pw salt count n).length = n) ∧
  (∀ (alg : HashAlg) (pw salt : Bits) (count m n : Nat), m ≤ n →
    pbkdf2Of alg pw salt count m = (pbkdf2Of alg pw salt count n).take m) ∧
  (∀ (alg : HashAlg) (pw salt : Bits) (n : Nat), pbkdf2Of alg pw salt 0 n = pbkdf2Of alg pw salt 1 n)

/-- R240, R245, with R243's exact number of rounds. -/
def Obligations.ChunkedPbkdf2 : Prop :=
  ∀ (alg : HashAlg) (pw salt : Bits) (count n : Nat) (quanta : List Nat),
    let e := quanta.foldl (fun e q => pbkSteps q e) (pbkStart alg pw salt count n)
    (e.state = .done ↔ (n + hashDigestBits alg - 1) / hashDigestBits alg * max count 1 ≤ quanta.sum) ∧
    (e.state = .done → e.length = n ∧ e.out.take n = pbkdf2Of alg pw salt count n)

/-- R266. -/
def Obligations.CbcRoundTrip : Prop :=
  ∀ (k : AesCtx) (pt iv adata ct : Bits), cbcEncrypt k pt iv adata = .ok ct → cbcDecrypt k ct iv adata = .ok pt

/-- R279. -/
def Obligations.CcmRoundTrip : Prop :=
  ∀ (k : AesCtx) (pt iv adata ct : Bits) (tlen : Nat), ccmEncrypt k pt iv adata tlen = .ok ct →
    ccmDecrypt k ct iv adata tlen = .ok pt

/-- R312. -/
def Obligations.Ocb2RoundTrip : Prop :=
  ∀ (k : AesCtx) (pt iv adata ct : Bits) (tlen : Nat), ocbEncrypt k pt iv adata tlen = .ok ct →
    ocbDecrypt k ct iv adata tlen = .ok pt

/-- R312. -/
def Obligations.GcmRoundTrip : Prop :=
  ∀ (k : AesCtx) (pt iv adata ct : Bits) (tlen : Nat), gcmEncrypt k pt iv adata tlen = .ok ct →
    gcmDecrypt k ct iv adata tlen = .ok pt

/-- R302 and R291 with their check values. -/
def Obligations.FieldLaws : Prop :=
  (∀ x : Block, gfMul (1 <<< 127) x = x ∧ gfMul x (1 <<< 127) = x) ∧
  (∀ x y z : Block, gfMul (x ^^^ y) z = gfMul x z ^^^ gfMul y z ∧ gfMul x (y ^^^ z) = gfMul x y ^^^ gfMul x z) ∧
  (∀ x y : Block, times2 (x ^^^ y) = times2 x ^^^ times2 y) ∧
  gfMul (1 <<< 126) 1 = 0xE1 <<< 120 ∧
  gfMul 0xb83b533708bf535d0aa6e52980d53b78 0xb83b533708bf535d0aa6e52980d53b78 =
    0x8a6ff5aca561c0d865805055eb728397 ∧
  times2 (1 <<< 127) = 0x87 ∧ times2 1 = 2 ∧
  times2 0xffffffffffffffffffffffffffffffff = 0xffffffffffffffffffffffffffffff79

/-- R334 and R335 in full; R330 to R332 and the loop of R337; R345 on a generator without entropy. -/
def Obligations.GeneratorReseed : Prop :=
  (∀ (full : Bool) (now : BitVec 64) (noise : Bits) (p : Prng),
    let q := reseed full now noise p
    let taken := reseedPools full p
    let entropy := (taken.map fun x => x.entropy.toNat).sum
    let fresh : Pool := { ctx := { h := iv256, buf := [], len := 0 }, entropy := 0 }
    q.pools = p.pools.mapIdx (fun j x => if reseedTakes full p j then fresh else x) ++
      (if p.npools < 32 ∧ 2 ^ p.npools ≤ p.reseedCount.toNat then [fresh] else []) ∧
    q.npools = q.pools.length ∧ q.poolStrength = p.poolStrength - BitVec.ofNat 32 entropy ∧
    q.strength = (if p.strength.toNat < entropy then BitVec.ofNat 32 entropy else p.strength) ∧
    q.reseedCount = p.reseedCount + 1 ∧ q.nextReseed = now + 30000 ∧ q.ctr = p.ctr.inc ∧
    bvToBits q.key = hashOf .sha256 (bvToBits p.key ++
      (natToBits 32 (now + 30000).toNat ++ noise ++ taken.flatMap fun x => shaFinish sha256P x.ctx)) ∧
    q.cipher = some (aesContext (bvToBits q.key)) ∧ q.robin = p.robin ∧ q.eventId = p.eventId) ∧
  (∀ c : Ctr, c.inc.toNat = (c.toNat + 1) % 2 ^ 128) ∧
  (∀ g : Gen, (gen4 g).1 = aesEncrypt g.cipher (counterBlock (g.ctr.toNat + 1)) ∧
    (gen4 g).2.ctr.toNat = (g.ctr.toNat + 1) % 2 ^ 128 ∧ (gen4 g).2.key = g.key ∧ (gen4 g).2.cipher = g.cipher) ∧
  (∀ (g : Gen) (n : Nat),
    let block := fun k : Nat => aesEncrypt g.cipher (counterBlock (g.ctr.toNat + k))
    let m := (n + 3) / 4
    let r := generate n g
    (n ≤ 65536 →
      r.1 = (((List.range m).map fun k => bvToBits (block (k + 1))).flatten).take (32 * n) ∧
      r.2.key = block (m + 1) ++ block (m + 2) ∧ r.2.cipher = aesContext (bvToBits r.2.key) ∧
      r.2.ctr.toNat = (g.ctr.toNat + m + 2) % 2 ^ 128) ∧
    (65536 < n →
      r.1 = (generate 65536 g).1 ++ (generate (n - 65536) (generate 65536 g).2).1 ∧
      r.2 = (generate (n - 65536) (generate 65536 g).2).2)) ∧
  (∀ (s : State) (a : BufIx) (c : ScalIx) (l : Nat), s.rng.strength = 0 → s.rng.poolStrength = 0 → l ≤ 10 →
    fitsBuf (32 * s.natAt c) = true → exec (.rngWords a c l) s = .next (s.failedTo 0x64 a .generatorNotSeeded))

/-- R368. -/
def Obligations.EnvelopeRoundTrip : Prop :=
  ∀ (r : EnvRecord) (pw pt ct : Bits) (raw : Bool), envEncrypt r pw raw pt = .ok ct →
    envDecrypt { r with ct := ct } pw raw = .ok pt

/-- R375. -/
def Obligations.EnvelopeTextRoundTrip : Prop :=
  ∀ (r : EnvRecord) (t : Bits), envSerialize r = .ok t → envParse t = .ok r

/-- R406: for every table and block. -/
def Obligations.Rc2Inverse : Prop :=
  (∀ (k : Rc2Table) (r : Rc2Block), rc2Decrypt k (rc2Encrypt k r) = r) ∧
  (∀ (k : Rc2Table) (x : Bits), x.length = 64 → rc2D k (rc2E k x) = x)

/-- R414. -/
def Obligations.LegacyRoundTrip : Prop :=
  ∀ (pw pt t : Bits), pt.length % 8 = 0 → (bytesOf pt).getLast? ≠ some 0 → legacyEncrypt pw pt = .ok t →
    legacyDecrypt pw t = .ok pt

/-- R430, R435: what the primitive commands build, ENC0.DEC reads. -/
def Obligations.Enc0Accepts : Prop :=
  ∀ (pw salt saltH iv pt ct : Bits) (nopad : Bool), salt.length = 128 → saltH.length = 128 → iv.length = 128 →
    cbcEncrypt (aesContext (pbkdf2Of .sha256 pw salt 50000 128)) pt iv [] = .ok ct →
    let signed := ofBytes [0x45, 0x4E, 0x43, 0x30] ++ salt ++ saltH ++ iv ++ ct
    let tag := hmacOf .sha256 (pbkdf2Of .sha256 pw saltH 50000 128) signed
    enc0Decrypt pw (ofBytes (b64EncodeBytes false nopad (signed ++ tag))) = .ok pt

end Statements
end

