-- ==== Sys2Proof/Laws/State.lean ====
section
/-! SUPPORT. What each update of the state leaves in each field: one lemma per field per update. -/

namespace Sys2Proof.Machine

variable (s : State)

/-! `setBuf` -/

@[simp] theorem setBuf_buf (i : BufIx) (x : Bits) : (s.setBuf i x).buf = s.buf.set i.val x i.isLt := rfl
@[simp] theorem setBuf_scal (i : BufIx) (x : Bits) : (s.setBuf i x).scal = s.scal := rfl
@[simp] theorem setBuf_keys (i : BufIx) (x : Bits) : (s.setBuf i x).keys = s.keys := rfl
@[simp] theorem setBuf_hashes (i : BufIx) (x : Bits) : (s.setBuf i x).hashes = s.hashes := rfl
@[simp] theorem setBuf_rk (i : BufIx) (x : Bits) : (s.setBuf i x).rk = s.rk := rfl
@[simp] theorem setBuf_pbk (i : BufIx) (x : Bits) : (s.setBuf i x).pbk = s.pbk := rfl
@[simp] theorem setBuf_rng (i : BufIx) (x : Bits) : (s.setBuf i x).rng = s.rng := rfl
@[simp] theorem setBuf_cmd (i : BufIx) (x : Bits) : (s.setBuf i x).cmd = s.cmd := rfl
@[simp] theorem setBuf_status (i : BufIx) (x : Bits) : (s.setBuf i x).status = s.status := rfl
@[simp] theorem setBuf_err (i : BufIx) (x : Bits) : (s.setBuf i x).err = s.err := rfl
@[simp] theorem setBuf_errFirst (i : BufIx) (x : Bits) : (s.setBuf i x).errFirst = s.errFirst := rfl
@[simp] theorem setBuf_cmdCnt (i : BufIx) (x : Bits) : (s.setBuf i x).cmdCnt = s.cmdCnt := rfl
@[simp] theorem setBuf_defParanoia (i : BufIx) (x : Bits) : (s.setBuf i x).defParanoia = s.defParanoia := rfl
@[simp] theorem setBuf_bsel (i : BufIx) (x : Bits) : (s.setBuf i x).bsel = s.bsel := rfl
@[simp] theorem setBuf_bptr (i : BufIx) (x : Bits) : (s.setBuf i x).bptr = s.bptr := rfl
@[simp] theorem setBuf_env (i : BufIx) (x : Bits) : (s.setBuf i x).env = s.env := rfl
@[simp] theorem setBuf_timeLo (i : BufIx) (x : Bits) : (s.setBuf i x).timeLo = s.timeLo := rfl
@[simp] theorem setBuf_timeHi (i : BufIx) (x : Bits) : (s.setBuf i x).timeHi = s.timeHi := rfl
@[simp] theorem setBuf_noise (i : BufIx) (x : Bits) : (s.setBuf i x).noise = s.noise := rfl
@[simp] theorem setBuf_hostIn (i : BufIx) (x : Bits) : (s.setBuf i x).hostIn = s.hostIn := rfl
@[simp] theorem setBuf_hostOut (i : BufIx) (x : Bits) : (s.setBuf i x).hostOut = s.hostOut := rfl

/-! `setScal` -/

@[simp] theorem setScal_buf (i : ScalIx) (v : Word) : (s.setScal i v).buf = s.buf := rfl
@[simp] theorem setScal_scal (i : ScalIx) (v : Word) : (s.setScal i v).scal = s.scal.set i.val v i.isLt := rfl
@[simp] theorem setScal_keys (i : ScalIx) (v : Word) : (s.setScal i v).keys = s.keys := rfl
@[simp] theorem setScal_hashes (i : ScalIx) (v : Word) : (s.setScal i v).hashes = s.hashes := rfl
@[simp] theorem setScal_rk (i : ScalIx) (v : Word) : (s.setScal i v).rk = s.rk := rfl
@[simp] theorem setScal_pbk (i : ScalIx) (v : Word) : (s.setScal i v).pbk = s.pbk := rfl
@[simp] theorem setScal_rng (i : ScalIx) (v : Word) : (s.setScal i v).rng = s.rng := rfl
@[simp] theorem setScal_cmd (i : ScalIx) (v : Word) : (s.setScal i v).cmd = s.cmd := rfl
@[simp] theorem setScal_status (i : ScalIx) (v : Word) : (s.setScal i v).status = s.status := rfl
@[simp] theorem setScal_err (i : ScalIx) (v : Word) : (s.setScal i v).err = s.err := rfl
@[simp] theorem setScal_errFirst (i : ScalIx) (v : Word) : (s.setScal i v).errFirst = s.errFirst := rfl
@[simp] theorem setScal_cmdCnt (i : ScalIx) (v : Word) : (s.setScal i v).cmdCnt = s.cmdCnt := rfl
@[simp] theorem setScal_defParanoia (i : ScalIx) (v : Word) : (s.setScal i v).defParanoia = s.defParanoia := rfl
@[simp] theorem setScal_bsel (i : ScalIx) (v : Word) : (s.setScal i v).bsel = s.bsel := rfl
@[simp] theorem setScal_bptr (i : ScalIx) (v : Word) : (s.setScal i v).bptr = s.bptr := rfl
@[simp] theorem setScal_env (i : ScalIx) (v : Word) : (s.setScal i v).env = s.env := rfl
@[simp] theorem setScal_timeLo (i : ScalIx) (v : Word) : (s.setScal i v).timeLo = s.timeLo := rfl
@[simp] theorem setScal_timeHi (i : ScalIx) (v : Word) : (s.setScal i v).timeHi = s.timeHi := rfl
@[simp] theorem setScal_noise (i : ScalIx) (v : Word) : (s.setScal i v).noise = s.noise := rfl
@[simp] theorem setScal_hostIn (i : ScalIx) (v : Word) : (s.setScal i v).hostIn = s.hostIn := rfl
@[simp] theorem setScal_hostOut (i : ScalIx) (v : Word) : (s.setScal i v).hostOut = s.hostOut := rfl

/-! `setKey` -/

@[simp] theorem setKey_buf (i : KeyIx) (c : AesCtx) : (s.setKey i c).buf = s.buf := rfl
@[simp] theorem setKey_scal (i : KeyIx) (c : AesCtx) : (s.setKey i c).scal = s.scal := rfl
@[simp] theorem setKey_keys (i : KeyIx) (c : AesCtx) : (s.setKey i c).keys = s.keys.set i.val (some c) i.isLt := rfl
@[simp] theorem setKey_hashes (i : KeyIx) (c : AesCtx) : (s.setKey i c).hashes = s.hashes := rfl
@[simp] theorem setKey_rk (i : KeyIx) (c : AesCtx) : (s.setKey i c).rk = s.rk := rfl
@[simp] theorem setKey_pbk (i : KeyIx) (c : AesCtx) : (s.setKey i c).pbk = s.pbk := rfl
@[simp] theorem setKey_rng (i : KeyIx) (c : AesCtx) : (s.setKey i c).rng = s.rng := rfl
@[simp] theorem setKey_cmd (i : KeyIx) (c : AesCtx) : (s.setKey i c).cmd = s.cmd := rfl
@[simp] theorem setKey_status (i : KeyIx) (c : AesCtx) : (s.setKey i c).status = s.status := rfl
@[simp] theorem setKey_err (i : KeyIx) (c : AesCtx) : (s.setKey i c).err = s.err := rfl
@[simp] theorem setKey_errFirst (i : KeyIx) (c : AesCtx) : (s.setKey i c).errFirst = s.errFirst := rfl
@[simp] theorem setKey_cmdCnt (i : KeyIx) (c : AesCtx) : (s.setKey i c).cmdCnt = s.cmdCnt := rfl
@[simp] theorem setKey_defParanoia (i : KeyIx) (c : AesCtx) : (s.setKey i c).defParanoia = s.defParanoia := rfl
@[simp] theorem setKey_bsel (i : KeyIx) (c : AesCtx) : (s.setKey i c).bsel = s.bsel := rfl
@[simp] theorem setKey_bptr (i : KeyIx) (c : AesCtx) : (s.setKey i c).bptr = s.bptr := rfl
@[simp] theorem setKey_env (i : KeyIx) (c : AesCtx) : (s.setKey i c).env = s.env := rfl
@[simp] theorem setKey_timeLo (i : KeyIx) (c : AesCtx) : (s.setKey i c).timeLo = s.timeLo := rfl
@[simp] theorem setKey_timeHi (i : KeyIx) (c : AesCtx) : (s.setKey i c).timeHi = s.timeHi := rfl
@[simp] theorem setKey_noise (i : KeyIx) (c : AesCtx) : (s.setKey i c).noise = s.noise := rfl
@[simp] theorem setKey_hostIn (i : KeyIx) (c : AesCtx) : (s.setKey i c).hostIn = s.hostIn := rfl
@[simp] theorem setKey_hostOut (i : KeyIx) (c : AesCtx) : (s.setKey i c).hostOut = s.hostOut := rfl

/-! `setHash` -/

@[simp] theorem setHash_buf (i : HashIx) (c : HashCtx) : (s.setHash i c).buf = s.buf := rfl
@[simp] theorem setHash_scal (i : HashIx) (c : HashCtx) : (s.setHash i c).scal = s.scal := rfl
@[simp] theorem setHash_keys (i : HashIx) (c : HashCtx) : (s.setHash i c).keys = s.keys := rfl
@[simp] theorem setHash_hashes (i : HashIx) (c : HashCtx) : (s.setHash i c).hashes = s.hashes.set i.val (some c) i.isLt := rfl
@[simp] theorem setHash_rk (i : HashIx) (c : HashCtx) : (s.setHash i c).rk = s.rk := rfl
@[simp] theorem setHash_pbk (i : HashIx) (c : HashCtx) : (s.setHash i c).pbk = s.pbk := rfl
@[simp] theorem setHash_rng (i : HashIx) (c : HashCtx) : (s.setHash i c).rng = s.rng := rfl
@[simp] theorem setHash_cmd (i : HashIx) (c : HashCtx) : (s.setHash i c).cmd = s.cmd := rfl
@[simp] theorem setHash_status (i : HashIx) (c : HashCtx) : (s.setHash i c).status = s.status := rfl
@[simp] theorem setHash_err (i : HashIx) (c : HashCtx) : (s.setHash i c).err = s.err := rfl
@[simp] theorem setHash_errFirst (i : HashIx) (c : HashCtx) : (s.setHash i c).errFirst = s.errFirst := rfl
@[simp] theorem setHash_cmdCnt (i : HashIx) (c : HashCtx) : (s.setHash i c).cmdCnt = s.cmdCnt := rfl
@[simp] theorem setHash_defParanoia (i : HashIx) (c : HashCtx) : (s.setHash i c).defParanoia = s.defParanoia := rfl
@[simp] theorem setHash_bsel (i : HashIx) (c : HashCtx) : (s.setHash i c).bsel = s.bsel := rfl
@[simp] theorem setHash_bptr (i : HashIx) (c : HashCtx) : (s.setHash i c).bptr = s.bptr := rfl
@[simp] theorem setHash_env (i : HashIx) (c : HashCtx) : (s.setHash i c).env = s.env := rfl
@[simp] theorem setHash_timeLo (i : HashIx) (c : HashCtx) : (s.setHash i c).timeLo = s.timeLo := rfl
@[simp] theorem setHash_timeHi (i : HashIx) (c : HashCtx) : (s.setHash i c).timeHi = s.timeHi := rfl
@[simp] theorem setHash_noise (i : HashIx) (c : HashCtx) : (s.setHash i c).noise = s.noise := rfl
@[simp] theorem setHash_hostIn (i : HashIx) (c : HashCtx) : (s.setHash i c).hostIn = s.hostIn := rfl
@[simp] theorem setHash_hostOut (i : HashIx) (c : HashCtx) : (s.setHash i c).hostOut = s.hostOut := rfl

/-! `setRk` -/

@[simp] theorem setRk_buf (t : Rc2Table) : (s.setRk t).buf = s.buf := rfl
@[simp] theorem setRk_scal (t : Rc2Table) : (s.setRk t).scal = s.scal := rfl
@[simp] theorem setRk_keys (t : Rc2Table) : (s.setRk t).keys = s.keys := rfl
@[simp] theorem setRk_hashes (t : Rc2Table) : (s.setRk t).hashes = s.hashes := rfl
@[simp] theorem setRk_rk (t : Rc2Table) : (s.setRk t).rk = some t := rfl
@[simp] theorem setRk_pbk (t : Rc2Table) : (s.setRk t).pbk = s.pbk := rfl
@[simp] theorem setRk_rng (t : Rc2Table) : (s.setRk t).rng = s.rng := rfl
@[simp] theorem setRk_cmd (t : Rc2Table) : (s.setRk t).cmd = s.cmd := rfl
@[simp] theorem setRk_status (t : Rc2Table) : (s.setRk t).status = s.status := rfl
@[simp] theorem setRk_err (t : Rc2Table) : (s.setRk t).err = s.err := rfl
@[simp] theorem setRk_errFirst (t : Rc2Table) : (s.setRk t).errFirst = s.errFirst := rfl
@[simp] theorem setRk_cmdCnt (t : Rc2Table) : (s.setRk t).cmdCnt = s.cmdCnt := rfl
@[simp] theorem setRk_defParanoia (t : Rc2Table) : (s.setRk t).defParanoia = s.defParanoia := rfl
@[simp] theorem setRk_bsel (t : Rc2Table) : (s.setRk t).bsel = s.bsel := rfl
@[simp] theorem setRk_bptr (t : Rc2Table) : (s.setRk t).bptr = s.bptr := rfl
@[simp] theorem setRk_env (t : Rc2Table) : (s.setRk t).env = s.env := rfl
@[simp] theorem setRk_timeLo (t : Rc2Table) : (s.setRk t).timeLo = s.timeLo := rfl
@[simp] theorem setRk_timeHi (t : Rc2Table) : (s.setRk t).timeHi = s.timeHi := rfl
@[simp] theorem setRk_noise (t : Rc2Table) : (s.setRk t).noise = s.noise := rfl
@[simp] theorem setRk_hostIn (t : Rc2Table) : (s.setRk t).hostIn = s.hostIn := rfl
@[simp] theorem setRk_hostOut (t : Rc2Table) : (s.setRk t).hostOut = s.hostOut := rfl

/-! `setPbk` -/

@[simp] theorem setPbk_buf (e : PbkEngine) : (s.setPbk e).buf = s.buf := rfl
@[simp] theorem setPbk_scal (e : PbkEngine) : (s.setPbk e).scal = s.scal := rfl
@[simp] theorem setPbk_keys (e : PbkEngine) : (s.setPbk e).keys = s.keys := rfl
@[simp] theorem setPbk_hashes (e : PbkEngine) : (s.setPbk e).hashes = s.hashes := rfl
@[simp] theorem setPbk_rk (e : PbkEngine) : (s.setPbk e).rk = s.rk := rfl
@[simp] theorem setPbk_pbk (e : PbkEngine) : (s.setPbk e).pbk = e := rfl
@[simp] theorem setPbk_rng (e : PbkEngine) : (s.setPbk e).rng = s.rng := rfl
@[simp] theorem setPbk_cmd (e : PbkEngine) : (s.setPbk e).cmd = s.cmd := rfl
@[simp] theorem setPbk_status (e : PbkEngine) : (s.setPbk e).status = s.status := rfl
@[simp] theorem setPbk_err (e : PbkEngine) : (s.setPbk e).err = s.err := rfl
@[simp] theorem setPbk_errFirst (e : PbkEngine) : (s.setPbk e).errFirst = s.errFirst := rfl
@[simp] theorem setPbk_cmdCnt (e : PbkEngine) : (s.setPbk e).cmdCnt = s.cmdCnt := rfl
@[simp] theorem setPbk_defParanoia (e : PbkEngine) : (s.setPbk e).defParanoia = s.defParanoia := rfl
@[simp] theorem setPbk_bsel (e : PbkEngine) : (s.setPbk e).bsel = s.bsel := rfl
@[simp] theorem setPbk_bptr (e : PbkEngine) : (s.setPbk e).bptr = s.bptr := rfl
@[simp] theorem setPbk_env (e : PbkEngine) : (s.setPbk e).env = s.env := rfl
@[simp] theorem setPbk_timeLo (e : PbkEngine) : (s.setPbk e).timeLo = s.timeLo := rfl
@[simp] theorem setPbk_timeHi (e : PbkEngine) : (s.setPbk e).timeHi = s.timeHi := rfl
@[simp] theorem setPbk_noise (e : PbkEngine) : (s.setPbk e).noise = s.noise := rfl
@[simp] theorem setPbk_hostIn (e : PbkEngine) : (s.setPbk e).hostIn = s.hostIn := rfl
@[simp] theorem setPbk_hostOut (e : PbkEngine) : (s.setPbk e).hostOut = s.hostOut := rfl

/-! `setRng` -/

@[simp] theorem setRng_buf (p : Prng) : (s.setRng p).buf = s.buf := rfl
@[simp] theorem setRng_scal (p : Prng) : (s.setRng p).scal = s.scal := rfl
@[simp] theorem setRng_keys (p : Prng) : (s.setRng p).keys = s.keys := rfl
@[simp] theorem setRng_hashes (p : Prng) : (s.setRng p).hashes = s.hashes := rfl
@[simp] theorem setRng_rk (p : Prng) : (s.setRng p).rk = s.rk := rfl
@[simp] theorem setRng_pbk (p : Prng) : (s.setRng p).pbk = s.pbk := rfl
@[simp] theorem setRng_rng (p : Prng) : (s.setRng p).rng = p := rfl
@[simp] theorem setRng_cmd (p : Prng) : (s.setRng p).cmd = s.cmd := rfl
@[simp] theorem setRng_status (p : Prng) : (s.setRng p).status = s.status := rfl
@[simp] theorem setRng_err (p : Prng) : (s.setRng p).err = s.err := rfl
@[simp] theorem setRng_errFirst (p : Prng) : (s.setRng p).errFirst = s.errFirst := rfl
@[simp] theorem setRng_cmdCnt (p : Prng) : (s.setRng p).cmdCnt = s.cmdCnt := rfl
@[simp] theorem setRng_defParanoia (p : Prng) : (s.setRng p).defParanoia = s.defParanoia := rfl
@[simp] theorem setRng_bsel (p : Prng) : (s.setRng p).bsel = s.bsel := rfl
@[simp] theorem setRng_bptr (p : Prng) : (s.setRng p).bptr = s.bptr := rfl
@[simp] theorem setRng_env (p : Prng) : (s.setRng p).env = s.env := rfl
@[simp] theorem setRng_timeLo (p : Prng) : (s.setRng p).timeLo = s.timeLo := rfl
@[simp] theorem setRng_timeHi (p : Prng) : (s.setRng p).timeHi = s.timeHi := rfl
@[simp] theorem setRng_noise (p : Prng) : (s.setRng p).noise = s.noise := rfl
@[simp] theorem setRng_hostIn (p : Prng) : (s.setRng p).hostIn = s.hostIn := rfl
@[simp] theorem setRng_hostOut (p : Prng) : (s.setRng p).hostOut = s.hostOut := rfl

/-! `setEnv` -/

@[simp] theorem setEnv_buf (r : EnvRegs) : (s.setEnv r).buf = s.buf := rfl
@[simp] theorem setEnv_scal (r : EnvRegs) : (s.setEnv r).scal = s.scal := rfl
@[simp] theorem setEnv_keys (r : EnvRegs) : (s.setEnv r).keys = s.keys := rfl
@[simp] theorem setEnv_hashes (r : EnvRegs) : (s.setEnv r).hashes = s.hashes := rfl
@[simp] theorem setEnv_rk (r : EnvRegs) : (s.setEnv r).rk = s.rk := rfl
@[simp] theorem setEnv_pbk (r : EnvRegs) : (s.setEnv r).pbk = s.pbk := rfl
@[simp] theorem setEnv_rng (r : EnvRegs) : (s.setEnv r).rng = s.rng := rfl
@[simp] theorem setEnv_cmd (r : EnvRegs) : (s.setEnv r).cmd = s.cmd := rfl
@[simp] theorem setEnv_status (r : EnvRegs) : (s.setEnv r).status = s.status := rfl
@[simp] theorem setEnv_err (r : EnvRegs) : (s.setEnv r).err = s.err := rfl
@[simp] theorem setEnv_errFirst (r : EnvRegs) : (s.setEnv r).errFirst = s.errFirst := rfl
@[simp] theorem setEnv_cmdCnt (r : EnvRegs) : (s.setEnv r).cmdCnt = s.cmdCnt := rfl
@[simp] theorem setEnv_defParanoia (r : EnvRegs) : (s.setEnv r).defParanoia = s.defParanoia := rfl
@[simp] theorem setEnv_bsel (r : EnvRegs) : (s.setEnv r).bsel = s.bsel := rfl
@[simp] theorem setEnv_bptr (r : EnvRegs) : (s.setEnv r).bptr = s.bptr := rfl
@[simp] theorem setEnv_env (r : EnvRegs) : (s.setEnv r).env = r := rfl
@[simp] theorem setEnv_timeLo (r : EnvRegs) : (s.setEnv r).timeLo = s.timeLo := rfl
@[simp] theorem setEnv_timeHi (r : EnvRegs) : (s.setEnv r).timeHi = s.timeHi := rfl
@[simp] theorem setEnv_noise (r : EnvRegs) : (s.setEnv r).noise = s.noise := rfl
@[simp] theorem setEnv_hostIn (r : EnvRegs) : (s.setEnv r).hostIn = s.hostIn := rfl
@[simp] theorem setEnv_hostOut (r : EnvRegs) : (s.setEnv r).hostOut = s.hostOut := rfl

/-! `succeed` -/

@[simp] theorem succeed_buf (op : Byte) : (s.succeed op).buf = s.buf := rfl
@[simp] theorem succeed_scal (op : Byte) : (s.succeed op).scal = s.scal := rfl
@[simp] theorem succeed_keys (op : Byte) : (s.succeed op).keys = s.keys := rfl
@[simp] theorem succeed_hashes (op : Byte) : (s.succeed op).hashes = s.hashes := rfl
@[simp] theorem succeed_rk (op : Byte) : (s.succeed op).rk = s.rk := rfl
@[simp] theorem succeed_pbk (op : Byte) : (s.succeed op).pbk = s.pbk := rfl
@[simp] theorem succeed_rng (op : Byte) : (s.succeed op).rng = s.rng := rfl
@[simp] theorem succeed_cmd (op : Byte) : (s.succeed op).cmd = s.cmd := rfl
@[simp] theorem succeed_status (op : Byte) : (s.succeed op).status = { s.status with busy := false, done := true, err := false } := rfl
@[simp] theorem succeed_err (op : Byte) : (s.succeed op).err = { op := op, code := none } := rfl
@[simp] theorem succeed_errFirst (op : Byte) : (s.succeed op).errFirst = s.errFirst := rfl
@[simp] theorem succeed_cmdCnt (op : Byte) : (s.succeed op).cmdCnt = s.cmdCnt + 1 := rfl
@[simp] theorem succeed_defParanoia (op : Byte) : (s.succeed op).defParanoia = s.defParanoia := rfl
@[simp] theorem succeed_bsel (op : Byte) : (s.succeed op).bsel = s.bsel := rfl
@[simp] theorem succeed_bptr (op : Byte) : (s.succeed op).bptr = s.bptr := rfl
@[simp] theorem succeed_env (op : Byte) : (s.succeed op).env = s.env := rfl
@[simp] theorem succeed_timeLo (op : Byte) : (s.succeed op).timeLo = s.timeLo := rfl
@[simp] theorem succeed_timeHi (op : Byte) : (s.succeed op).timeHi = s.timeHi := rfl
@[simp] theorem succeed_noise (op : Byte) : (s.succeed op).noise = s.noise := rfl
@[simp] theorem succeed_hostIn (op : Byte) : (s.succeed op).hostIn = s.hostIn := rfl
@[simp] theorem succeed_hostOut (op : Byte) : (s.succeed op).hostOut = s.hostOut := rfl

/-! `fail` -/

@[simp] theorem fail_buf (op : Byte) (e : Err) : (s.fail op e).buf = s.buf := rfl
@[simp] theorem fail_scal (op : Byte) (e : Err) : (s.fail op e).scal = s.scal := rfl
@[simp] theorem fail_keys (op : Byte) (e : Err) : (s.fail op e).keys = s.keys := rfl
@[simp] theorem fail_hashes (op : Byte) (e : Err) : (s.fail op e).hashes = s.hashes := rfl
@[simp] theorem fail_rk (op : Byte) (e : Err) : (s.fail op e).rk = s.rk := rfl
@[simp] theorem fail_pbk (op : Byte) (e : Err) : (s.fail op e).pbk = s.pbk := rfl
@[simp] theorem fail_rng (op : Byte) (e : Err) : (s.fail op e).rng = s.rng := rfl
@[simp] theorem fail_cmd (op : Byte) (e : Err) : (s.fail op e).cmd = s.cmd := rfl
@[simp] theorem fail_status (op : Byte) (e : Err) : (s.fail op e).status = { busy := false, done := true, err := true, errs := true } := rfl
@[simp] theorem fail_err (op : Byte) (e : Err) : (s.fail op e).err = { op := op, code := some e } := rfl
@[simp] theorem fail_errFirst (op : Byte) (e : Err) : (s.fail op e).errFirst = errFirstAfter s.errFirst { op := op, code := some e } := rfl
@[simp] theorem fail_cmdCnt (op : Byte) (e : Err) : (s.fail op e).cmdCnt = s.cmdCnt + 1 := rfl
@[simp] theorem fail_defParanoia (op : Byte) (e : Err) : (s.fail op e).defParanoia = s.defParanoia := rfl
@[simp] theorem fail_bsel (op : Byte) (e : Err) : (s.fail op e).bsel = s.bsel := rfl
@[simp] theorem fail_bptr (op : Byte) (e : Err) : (s.fail op e).bptr = s.bptr := rfl
@[simp] theorem fail_env (op : Byte) (e : Err) : (s.fail op e).env = s.env := rfl
@[simp] theorem fail_timeLo (op : Byte) (e : Err) : (s.fail op e).timeLo = s.timeLo := rfl
@[simp] theorem fail_timeHi (op : Byte) (e : Err) : (s.fail op e).timeHi = s.timeHi := rfl
@[simp] theorem fail_noise (op : Byte) (e : Err) : (s.fail op e).noise = s.noise := rfl
@[simp] theorem fail_hostIn (op : Byte) (e : Err) : (s.fail op e).hostIn = s.hostIn := rfl
@[simp] theorem fail_hostOut (op : Byte) (e : Err) : (s.fail op e).hostOut = s.hostOut := rfl

/-! `hardReset` -/

@[simp] theorem hardReset_buf : (hardReset s).buf = State.reset.buf := rfl
@[simp] theorem hardReset_scal : (hardReset s).scal = State.reset.scal := rfl
@[simp] theorem hardReset_keys : (hardReset s).keys = State.reset.keys := rfl
@[simp] theorem hardReset_hashes : (hardReset s).hashes = State.reset.hashes := rfl
@[simp] theorem hardReset_rk : (hardReset s).rk = State.reset.rk := rfl
@[simp] theorem hardReset_pbk : (hardReset s).pbk = State.reset.pbk := rfl
@[simp] theorem hardReset_rng : (hardReset s).rng = State.reset.rng := rfl
@[simp] theorem hardReset_cmd : (hardReset s).cmd = State.reset.cmd := rfl
@[simp] theorem hardReset_status : (hardReset s).status = State.reset.status := rfl
@[simp] theorem hardReset_err : (hardReset s).err = State.reset.err := rfl
@[simp] theorem hardReset_errFirst : (hardReset s).errFirst = State.reset.errFirst := rfl
@[simp] theorem hardReset_cmdCnt : (hardReset s).cmdCnt = State.reset.cmdCnt := rfl
@[simp] theorem hardReset_defParanoia : (hardReset s).defParanoia = State.reset.defParanoia := rfl
@[simp] theorem hardReset_bsel : (hardReset s).bsel = State.reset.bsel := rfl
@[simp] theorem hardReset_bptr : (hardReset s).bptr = State.reset.bptr := rfl
@[simp] theorem hardReset_env : (hardReset s).env = State.reset.env := rfl
@[simp] theorem hardReset_timeLo : (hardReset s).timeLo = State.reset.timeLo := rfl
@[simp] theorem hardReset_timeHi : (hardReset s).timeHi = State.reset.timeHi := rfl
@[simp] theorem hardReset_noise : (hardReset s).noise = State.reset.noise := rfl
@[simp] theorem hardReset_hostIn : (hardReset s).hostIn = s.hostIn := rfl
@[simp] theorem hardReset_hostOut : (hardReset s).hostOut = s.hostOut := rfl

/-! `zeroized` -/

@[simp] theorem zeroized_buf : (zeroized s).buf = State.reset.buf := rfl
@[simp] theorem zeroized_scal : (zeroized s).scal = State.reset.scal := rfl
@[simp] theorem zeroized_keys : (zeroized s).keys = State.reset.keys := rfl
@[simp] theorem zeroized_hashes : (zeroized s).hashes = State.reset.hashes := rfl
@[simp] theorem zeroized_rk : (zeroized s).rk = State.reset.rk := rfl
@[simp] theorem zeroized_pbk : (zeroized s).pbk = State.reset.pbk := rfl
@[simp] theorem zeroized_rng : (zeroized s).rng = s.rng := rfl
@[simp] theorem zeroized_cmd : (zeroized s).cmd = s.cmd := rfl
@[simp] theorem zeroized_status : (zeroized s).status = s.status := rfl
@[simp] theorem zeroized_err : (zeroized s).err = s.err := rfl
@[simp] theorem zeroized_errFirst : (zeroized s).errFirst = s.errFirst := rfl
@[simp] theorem zeroized_cmdCnt : (zeroized s).cmdCnt = s.cmdCnt := rfl
@[simp] theorem zeroized_defParanoia : (zeroized s).defParanoia = s.defParanoia := rfl
@[simp] theorem zeroized_bsel : (zeroized s).bsel = State.reset.bsel := rfl
@[simp] theorem zeroized_bptr : (zeroized s).bptr = State.reset.bptr := rfl
@[simp] theorem zeroized_env : (zeroized s).env = State.reset.env := rfl
@[simp] theorem zeroized_timeLo : (zeroized s).timeLo = s.timeLo := rfl
@[simp] theorem zeroized_timeHi : (zeroized s).timeHi = s.timeHi := rfl
@[simp] theorem zeroized_noise : (zeroized s).noise = s.noise := rfl
@[simp] theorem zeroized_hostIn : (zeroized s).hostIn = s.hostIn := rfl
@[simp] theorem zeroized_hostOut : (zeroized s).hostOut = s.hostOut := rfl

/-! Reading a register file after a write to it. -/

@[simp] theorem bufAt_setBuf (i j : BufIx) (x : Bits) : (s.setBuf i x).bufAt j = if i = j then x else s.bufAt j := by
  simp [State.bufAt, State.setBuf, Vector.get_eq_getElem, Vector.getElem_set, Fin.ext_iff]

@[simp] theorem scalAt_setScal (i j : ScalIx) (v : Word) :
    (s.setScal i v).scalAt j = if i = j then v else s.scalAt j := by
  simp [State.scalAt, State.setScal, Vector.get_eq_getElem, Vector.getElem_set, Fin.ext_iff]

@[simp] theorem keyAt_setKey (i j : KeyIx) (c : AesCtx) :
    (s.setKey i c).keyAt j = if i = j then some c else s.keyAt j := by
  simp [State.keyAt, State.setKey, Vector.get_eq_getElem, Vector.getElem_set, Fin.ext_iff]

@[simp] theorem hashAt_setHash (i j : HashIx) (c : HashCtx) :
    (s.setHash i c).hashAt j = if i = j then some c else s.hashAt j := by
  simp [State.hashAt, State.setHash, Vector.get_eq_getElem, Vector.getElem_set, Fin.ext_iff]

/-! Reading a register file after a write elsewhere. -/

@[simp] theorem bufAt_setScal (i : ScalIx) (v : Word) (j : BufIx) : (s.setScal i v).bufAt j = s.bufAt j := rfl
@[simp] theorem bufAt_setKey (i : KeyIx) (c : AesCtx) (j : BufIx) : (s.setKey i c).bufAt j = s.bufAt j := rfl
@[simp] theorem bufAt_setHash (i : HashIx) (c : HashCtx) (j : BufIx) : (s.setHash i c).bufAt j = s.bufAt j := rfl
@[simp] theorem bufAt_setRk (t : Rc2Table) (j : BufIx) : (s.setRk t).bufAt j = s.bufAt j := rfl
@[simp] theorem bufAt_setPbk (e : PbkEngine) (j : BufIx) : (s.setPbk e).bufAt j = s.bufAt j := rfl
@[simp] theorem bufAt_setRng (p : Prng) (j : BufIx) : (s.setRng p).bufAt j = s.bufAt j := rfl
@[simp] theorem bufAt_setEnv (r : EnvRegs) (j : BufIx) : (s.setEnv r).bufAt j = s.bufAt j := rfl
@[simp] theorem bufAt_succeed (op : Byte) (j : BufIx) : (s.succeed op).bufAt j = s.bufAt j := rfl
@[simp] theorem bufAt_fail (op : Byte) (e : Err) (j : BufIx) : (s.fail op e).bufAt j = s.bufAt j := rfl
@[simp] theorem scalAt_setBuf (i : BufIx) (x : Bits) (j : ScalIx) : (s.setBuf i x).scalAt j = s.scalAt j := rfl
@[simp] theorem scalAt_setKey (i : KeyIx) (c : AesCtx) (j : ScalIx) : (s.setKey i c).scalAt j = s.scalAt j := rfl
@[simp] theorem scalAt_setHash (i : HashIx) (c : HashCtx) (j : ScalIx) : (s.setHash i c).scalAt j = s.scalAt j := rfl
@[simp] theorem scalAt_setRk (t : Rc2Table) (j : ScalIx) : (s.setRk t).scalAt j = s.scalAt j := rfl
@[simp] theorem scalAt_setPbk (e : PbkEngine) (j : ScalIx) : (s.setPbk e).scalAt j = s.scalAt j := rfl
@[simp] theorem scalAt_setRng (p : Prng) (j : ScalIx) : (s.setRng p).scalAt j = s.scalAt j := rfl
@[simp] theorem scalAt_setEnv (r : EnvRegs) (j : ScalIx) : (s.setEnv r).scalAt j = s.scalAt j := rfl
@[simp] theorem scalAt_succeed (op : Byte) (j : ScalIx) : (s.succeed op).scalAt j = s.scalAt j := rfl
@[simp] theorem scalAt_fail (op : Byte) (e : Err) (j : ScalIx) : (s.fail op e).scalAt j = s.scalAt j := rfl
@[simp] theorem keyAt_setBuf (i : BufIx) (x : Bits) (j : KeyIx) : (s.setBuf i x).keyAt j = s.keyAt j := rfl
@[simp] theorem keyAt_setScal (i : ScalIx) (v : Word) (j : KeyIx) : (s.setScal i v).keyAt j = s.keyAt j := rfl
@[simp] theorem keyAt_setHash (i : HashIx) (c : HashCtx) (j : KeyIx) : (s.setHash i c).keyAt j = s.keyAt j := rfl
@[simp] theorem keyAt_setRk (t : Rc2Table) (j : KeyIx) : (s.setRk t).keyAt j = s.keyAt j := rfl
@[simp] theorem keyAt_setPbk (e : PbkEngine) (j : KeyIx) : (s.setPbk e).keyAt j = s.keyAt j := rfl
@[simp] theorem keyAt_setRng (p : Prng) (j : KeyIx) : (s.setRng p).keyAt j = s.keyAt j := rfl
@[simp] theorem keyAt_setEnv (r : EnvRegs) (j : KeyIx) : (s.setEnv r).keyAt j = s.keyAt j := rfl
@[simp] theorem keyAt_succeed (op : Byte) (j : KeyIx) : (s.succeed op).keyAt j = s.keyAt j := rfl
@[simp] theorem keyAt_fail (op : Byte) (e : Err) (j : KeyIx) : (s.fail op e).keyAt j = s.keyAt j := rfl
@[simp] theorem hashAt_setBuf (i : BufIx) (x : Bits) (j : HashIx) : (s.setBuf i x).hashAt j = s.hashAt j := rfl
@[simp] theorem hashAt_setScal (i : ScalIx) (v : Word) (j : HashIx) : (s.setScal i v).hashAt j = s.hashAt j := rfl
@[simp] theorem hashAt_setKey (i : KeyIx) (c : AesCtx) (j : HashIx) : (s.setKey i c).hashAt j = s.hashAt j := rfl
@[simp] theorem hashAt_setRk (t : Rc2Table) (j : HashIx) : (s.setRk t).hashAt j = s.hashAt j := rfl
@[simp] theorem hashAt_setPbk (e : PbkEngine) (j : HashIx) : (s.setPbk e).hashAt j = s.hashAt j := rfl
@[simp] theorem hashAt_setRng (p : Prng) (j : HashIx) : (s.setRng p).hashAt j = s.hashAt j := rfl
@[simp] theorem hashAt_setEnv (r : EnvRegs) (j : HashIx) : (s.setEnv r).hashAt j = s.hashAt j := rfl
@[simp] theorem hashAt_succeed (op : Byte) (j : HashIx) : (s.succeed op).hashAt j = s.hashAt j := rfl
@[simp] theorem hashAt_fail (op : Byte) (e : Err) (j : HashIx) : (s.fail op e).hashAt j = s.hashAt j := rfl

end Sys2Proof.Machine
end

