-- ==== Sys2Proof/Laws/Ops.lean ====
section
/-! SUPPORT. What each shared operation can do, said once: the ends of a command, and the two shapes of a command with
one result. -/

namespace Sys2Proof.Machine

@[simp] theorem finish_eq (op : Byte) (s : State) : finish op s = .next (s.succeed op) := rfl

@[simp] theorem raise_eq (op : Byte) (e : Err) (s : State) : raise op e s = .next (s.fail op e) := rfl

@[simp] theorem raiseTo_eq (op : Byte) (a : BufIx) (e : Err) (s : State) :
    raiseTo op a e s = .next (s.failedTo op a e) := rfl

@[simp] theorem resultToBuf_ok (op : Byte) (a : BufIx) (x : Bits) (s : State) :
    resultToBuf op a (.ok x) s = .next (s.wrote op a x) := rfl

@[simp] theorem resultToBuf_error (op : Byte) (a : BufIx) (e : Err) (s : State) :
    resultToBuf op a (.error e) s = .next (s.failedTo op a e) := rfl

@[simp] theorem resultToScal_ok (op : Byte) (a : ScalIx) (v : Word) (s : State) :
    resultToScal op a (.ok v) s = .next (s.wroteScal op a v) := rfl

@[simp] theorem resultToScal_error (op : Byte) (a : ScalIx) (e : Err) (s : State) :
    resultToScal op a (.error e) s = .next (s.fail op e) := rfl

/-- A command with one bit string as its result ends in one of two ways. -/
theorem resultToBuf_cases {op : Byte} {a : BufIx} {r : Except Err Bits} {s t : State}
    (h : resultToBuf op a r s = .next t) :
    (∃ x, r = .ok x ∧ t = s.wrote op a x) ∨ (∃ e, r = .error e ∧ t = s.failedTo op a e) := by
  cases r with
  | ok x => exact .inl ⟨x, rfl, (Host.Outcome.next.inj h).symm⟩
  | error e => exact .inr ⟨e, rfl, (Host.Outcome.next.inj h).symm⟩

/-- A command with one word as its result ends in one of two ways. -/
theorem resultToScal_cases {op : Byte} {a : ScalIx} {r : Except Err Word} {s t : State}
    (h : resultToScal op a r s = .next t) :
    (∃ v, r = .ok v ∧ t = s.wroteScal op a v) ∨ (∃ e, r = .error e ∧ t = s.fail op e) := by
  cases r with
  | ok v => exact .inl ⟨v, rfl, (Host.Outcome.next.inj h).symm⟩
  | error e => exact .inr ⟨e, rfl, (Host.Outcome.next.inj h).symm⟩

/-- An entropy command ends in one of three ways. -/
theorem finishEntropy_cases {op : Byte} {r : RngResult} {s t : State} (h : finishEntropy op r s = .next t) :
    (∃ p, r = .done p ∧ t = (s.setRng p).succeed op) ∨ (∃ e, r = .raised e ∧ t = s.fail op e) := by
  cases r with
  | done p => exact .inl ⟨p, rfl, (Host.Outcome.next.inj h).symm⟩
  | raised e => exact .inr ⟨e, rfl, (Host.Outcome.next.inj h).symm⟩
  | stopped f => cases h

/-- The two ends of a capacity test. -/
theorem capacity_cases {n : Nat} {r : Except Err Bits} :
    (fitsBuf n = true ∧ capacity n r = r) ∨ (fitsBuf n = false ∧ capacity n r = .error .bufferOverflow) := by
  cases h : fitsBuf n <;> simp [capacity, h]

/-- The two ends of the key-slot test. -/
theorem withKey_cases (k : Option AesCtx) (f : AesCtx → Except Err Bits) :
    (k = none ∧ withKey k f = .error .invalidState) ∨ (∃ c, k = some c ∧ withKey k f = f c) := by
  cases k with
  | none => exact .inl ⟨rfl, rfl⟩
  | some c => exact .inr ⟨c, rfl, rfl⟩

/-- A length that is no more than one that fits, fits. -/
theorem fitsBuf_mono {m n : Nat} (h : m ≤ n) (hn : fitsBuf n = true) : fitsBuf m = true := by
  unfold fitsBuf at *
  cases hc : Config.bufMaxBeyond <;> simp_all; omega

/-- A length up to `2^20` fits, whatever the capacity is (R10). -/
theorem fitsBuf_of_le {n : Nat} (h : n ≤ 2 ^ 20) : fitsBuf n = true := by
  have h' : n ≤ minBufBits := h
  simp [fitsBuf, h']

/-- What the core does with the next action, by its kind. -/
@[simp] theorem takeAction_nil {s : State} (h : s.hostIn = []) : takeAction s = .idle := by
  unfold takeAction; rw [h]

theorem takeAction_reset {s : State} {rest : List HostAction} (h : s.hostIn = .reset :: rest) :
    takeAction s = .settled (hardReset { s with hostIn := rest }) := by
  unfold takeAction; rw [h]

theorem takeAction_read {s : State} {addr : BitVec 12} {size : Nat} {rest : List HostAction}
    (h : s.hostIn = .read addr size :: rest) :
    takeAction s =
      .settled
        { regReadEffect { s with hostIn := rest } (hostReg addr size) with
          hostOut := regRead { s with hostIn := rest } (hostReg addr size) :: s.hostOut } := by
  unfold takeAction; rw [h]

theorem takeAction_write {s : State} {addr : BitVec 12} {size : Nat} {v : Word} {rest : List HostAction}
    (h : s.hostIn = .write addr size v :: rest) (hr : hostReg addr size ≠ .cmd) :
    takeAction s = .settled (regWrite { s with hostIn := rest } v (hostReg addr size)) := by
  unfold takeAction; rw [h]; simp [hr]

theorem takeAction_command {s : State} {cw : Word} {rest : List HostAction}
    (h : s.hostIn = .write 0x000 4 cw :: rest) :
    takeAction s = .command cw { s with hostIn := rest, cmd := cw } := by
  unfold takeAction; rw [h]; rfl

@[simp] theorem length_rowWords (w n row : Nat) : (rowWords w n row).length = n := by simp [rowWords]

end Sys2Proof.Machine
end

