-- ==== Sys2Proof/Laws/PerInstr.lean ====
section
/-! SUPPORT. Facts about a command as syntax, one lemma per constructor. -/

set_option Elab.async false

namespace Sys2Proof.Laws

open Sys2Proof

/-- The opcode byte of the command has exactly one row of the opcode table (R105, R106). -/
def EncodingHasRow.Statement (i : Instr) : Prop := (rows.filter fun r => r.op == (encodeFields i).op).length = 1

theorem EncodingHasRow.nop : EncodingHasRow.Statement (.nop) := by
  simp [EncodingHasRow.Statement, rows, encodeFields]

theorem EncodingHasRow.zeroize : EncodingHasRow.Statement (.zeroize) := by
  simp [EncodingHasRow.Statement, rows, encodeFields]

theorem EncodingHasRow.baLen (a : ScalIx) (b : BufIx) : EncodingHasRow.Statement (.baLen a b) := by
  simp [EncodingHasRow.Statement, rows, encodeFields]

theorem EncodingHasRow.baSlice (a b : BufIx) (c d : ScalIx) : EncodingHasRow.Statement (.baSlice a b c d) := by
  simp [EncodingHasRow.Statement, rows, encodeFields]

theorem EncodingHasRow.baExtract (a : ScalIx) (b : BufIx) (c d : ScalIx) : EncodingHasRow.Statement (.baExtract a b c d) := by
  simp [EncodingHasRow.Statement, rows, encodeFields]

theorem EncodingHasRow.baConcat (a b c : BufIx) : EncodingHasRow.Statement (.baConcat a b c) := by
  simp [EncodingHasRow.Statement, rows, encodeFields]

theorem EncodingHasRow.baClamp (a b : BufIx) (c : ScalIx) : EncodingHasRow.Statement (.baClamp a b c) := by
  simp [EncodingHasRow.Statement, rows, encodeFields]

theorem EncodingHasRow.baEqual (a : ScalIx) (b c : BufIx) : EncodingHasRow.Statement (.baEqual a b c) := by
  simp [EncodingHasRow.Statement, rows, encodeFields]

theorem EncodingHasRow.baPartial (a : BufIx) (b c : ScalIx) (high : Bool) : EncodingHasRow.Statement (.baPartial a b c high) := by
  simp [EncodingHasRow.Statement, rows, encodeFields]

theorem EncodingHasRow.baGetPartial (a : ScalIx) (b : BufIx) : EncodingHasRow.Statement (.baGetPartial a b) := by
  simp [EncodingHasRow.Statement, rows, encodeFields]

theorem EncodingHasRow.hexDec (a b : BufIx) : EncodingHasRow.Statement (.hexDec a b) := by
  simp [EncodingHasRow.Statement, rows, encodeFields]

theorem EncodingHasRow.hexEnc (a b : BufIx) : EncodingHasRow.Statement (.hexEnc a b) := by
  simp [EncodingHasRow.Statement, rows, encodeFields]

theorem EncodingHasRow.b64Dec (a b : BufIx) (url : Bool) : EncodingHasRow.Statement (.b64Dec a b url) := by
  simp [EncodingHasRow.Statement, rows, encodeFields]

theorem EncodingHasRow.b64Enc (a b : BufIx) (url nopad : Bool) : EncodingHasRow.Statement (.b64Enc a b url nopad) := by
  simp [EncodingHasRow.Statement, rows, encodeFields]

theorem EncodingHasRow.aesKey (a : KeyIx) (b : BufIx) : EncodingHasRow.Statement (.aesKey a b) := by
  simp [EncodingHasRow.Statement, rows, encodeFields]

theorem EncodingHasRow.aesEnc (a b : BufIx) (e : KeyIx) : EncodingHasRow.Statement (.aesEnc a b e) := by
  simp [EncodingHasRow.Statement, rows, encodeFields]

theorem EncodingHasRow.aesDec (a b : BufIx) (e : KeyIx) : EncodingHasRow.Statement (.aesDec a b e) := by
  simp [EncodingHasRow.Statement, rows, encodeFields]

theorem EncodingHasRow.hashReset (a : HashIx) (alg : HashAlg) : EncodingHasRow.Statement (.hashReset a alg) := by
  simp [EncodingHasRow.Statement, rows, encodeFields]

theorem EncodingHasRow.hashUpdate (a : HashIx) (b : BufIx) : EncodingHasRow.Statement (.hashUpdate a b) := by
  simp [EncodingHasRow.Statement, rows, encodeFields]

theorem EncodingHasRow.hashFinal (a : BufIx) (e : HashIx) : EncodingHasRow.Statement (.hashFinal a e) := by
  simp [EncodingHasRow.Statement, rows, encodeFields]

theorem EncodingHasRow.hashDigest (a b : BufIx) (alg : HashAlg) : EncodingHasRow.Statement (.hashDigest a b alg) := by
  simp [EncodingHasRow.Statement, rows, encodeFields]

theorem EncodingHasRow.hmac (a b c : BufIx) (alg : HashAlg) : EncodingHasRow.Statement (.hmac a b c alg) := by
  simp [EncodingHasRow.Statement, rows, encodeFields]

theorem EncodingHasRow.pbkdf2 (a b c : BufIx) (d e : ScalIx) (alg : HashAlg) : EncodingHasRow.Statement (.pbkdf2 a b c d e alg) := by
  simp [EncodingHasRow.Statement, rows, encodeFields]

theorem EncodingHasRow.pbkdf2Init (b c : BufIx) (d e : ScalIx) (alg : HashAlg) : EncodingHasRow.Statement (.pbkdf2Init b c d e alg) := by
  simp [EncodingHasRow.Statement, rows, encodeFields]

theorem EncodingHasRow.pbkdf2Step (a b : ScalIx) : EncodingHasRow.Statement (.pbkdf2Step a b) := by
  simp [EncodingHasRow.Statement, rows, encodeFields]

theorem EncodingHasRow.pbkdf2Read (a : BufIx) : EncodingHasRow.Statement (.pbkdf2Read a) := by
  simp [EncodingHasRow.Statement, rows, encodeFields]

theorem EncodingHasRow.cbcEnc (a b c d : BufIx) (e : KeyIx) : EncodingHasRow.Statement (.cbcEnc a b c d e) := by
  simp [EncodingHasRow.Statement, rows, encodeFields]

theorem EncodingHasRow.cbcDec (a b c d : BufIx) (e : KeyIx) : EncodingHasRow.Statement (.cbcDec a b c d e) := by
  simp [EncodingHasRow.Statement, rows, encodeFields]

theorem EncodingHasRow.ccmEnc (a b c d : BufIx) (e : KeyIx) (tl : Nat) : EncodingHasRow.Statement (.ccmEnc a b c d e tl) := by
  simp [EncodingHasRow.Statement, rows, encodeFields]

theorem EncodingHasRow.ccmDec (a b c d : BufIx) (e : KeyIx) (tl : Nat) : EncodingHasRow.Statement (.ccmDec a b c d e tl) := by
  simp [EncodingHasRow.Statement, rows, encodeFields]

theorem EncodingHasRow.ocb2Enc (a b c d : BufIx) (e : KeyIx) (tl : Nat) : EncodingHasRow.Statement (.ocb2Enc a b c d e tl) := by
  simp [EncodingHasRow.Statement, rows, encodeFields]

theorem EncodingHasRow.ocb2Dec (a b c d : BufIx) (e : KeyIx) (tl : Nat) : EncodingHasRow.Statement (.ocb2Dec a b c d e tl) := by
  simp [EncodingHasRow.Statement, rows, encodeFields]

theorem EncodingHasRow.gcmEnc (a b c d : BufIx) (e : KeyIx) (tl : Nat) : EncodingHasRow.Statement (.gcmEnc a b c d e tl) := by
  simp [EncodingHasRow.Statement, rows, encodeFields]

theorem EncodingHasRow.gcmDec (a b c d : BufIx) (e : KeyIx) (tl : Nat) : EncodingHasRow.Statement (.gcmDec a b c d e tl) := by
  simp [EncodingHasRow.Statement, rows, encodeFields]

theorem EncodingHasRow.rngAddentN (b c : ScalIx) (tag : TagIx) (defest : Bool) : EncodingHasRow.Statement (.rngAddentN b c tag defest) := by
  simp [EncodingHasRow.Statement, rows, encodeFields]

theorem EncodingHasRow.rngAddentW (b : BufIx) (c : ScalIx) (tag : TagIx) (defest : Bool) : EncodingHasRow.Statement (.rngAddentW b c tag defest) := by
  simp [EncodingHasRow.Statement, rows, encodeFields]

theorem EncodingHasRow.rngAddentS (b : BufIx) (c : ScalIx) (tag : TagIx) (defest : Bool) : EncodingHasRow.Statement (.rngAddentS b c tag defest) := by
  simp [EncodingHasRow.Statement, rows, encodeFields]

theorem EncodingHasRow.rngIsReady (a : ScalIx) (level : Nat) : EncodingHasRow.Statement (.rngIsReady a level) := by
  simp [EncodingHasRow.Statement, rows, encodeFields]

theorem EncodingHasRow.rngWords (a : BufIx) (c : ScalIx) (level : Nat) : EncodingHasRow.Statement (.rngWords a c level) := by
  simp [EncodingHasRow.Statement, rows, encodeFields]

theorem EncodingHasRow.envDec (a b : BufIx) (rawkey : Bool) : EncodingHasRow.Statement (.envDec a b rawkey) := by
  simp [EncodingHasRow.Statement, rows, encodeFields]

theorem EncodingHasRow.envEnc (b c : BufIx) (rawkey : Bool) : EncodingHasRow.Statement (.envEnc b c rawkey) := by
  simp [EncodingHasRow.Statement, rows, encodeFields]

theorem EncodingHasRow.envParse (b : BufIx) : EncodingHasRow.Statement (.envParse b) := by
  simp [EncodingHasRow.Statement, rows, encodeFields]

theorem EncodingHasRow.envSer (a : BufIx) : EncodingHasRow.Statement (.envSer a) := by
  simp [EncodingHasRow.Statement, rows, encodeFields]

theorem EncodingHasRow.md5 (a b : BufIx) : EncodingHasRow.Statement (.md5 a b) := by
  simp [EncodingHasRow.Statement, rows, encodeFields]

theorem EncodingHasRow.crc32 (a : ScalIx) (b : BufIx) : EncodingHasRow.Statement (.crc32 a b) := by
  simp [EncodingHasRow.Statement, rows, encodeFields]

theorem EncodingHasRow.rc2Key (b : BufIx) (c : ScalIx) : EncodingHasRow.Statement (.rc2Key b c) := by
  simp [EncodingHasRow.Statement, rows, encodeFields]

theorem EncodingHasRow.rc2Enc (a b : BufIx) : EncodingHasRow.Statement (.rc2Enc a b) := by
  simp [EncodingHasRow.Statement, rows, encodeFields]

theorem EncodingHasRow.rc2Dec (a b : BufIx) : EncodingHasRow.Statement (.rc2Dec a b) := by
  simp [EncodingHasRow.Statement, rows, encodeFields]

theorem EncodingHasRow.legacyDec (a b c : BufIx) : EncodingHasRow.Statement (.legacyDec a b c) := by
  simp [EncodingHasRow.Statement, rows, encodeFields]

theorem EncodingHasRow.legacyEnc (a b c : BufIx) : EncodingHasRow.Statement (.legacyEnc a b c) := by
  simp [EncodingHasRow.Statement, rows, encodeFields]

theorem EncodingHasRow.enc0Dec (a b c : BufIx) : EncodingHasRow.Statement (.enc0Dec a b c) := by
  simp [EncodingHasRow.Statement, rows, encodeFields]

theorem EncodingHasRow.dispatchDec (a b c d : BufIx) (e : ScalIx) : EncodingHasRow.Statement (.dispatchDec a b c d e) := by
  simp [EncodingHasRow.Statement, rows, encodeFields]

end Sys2Proof.Laws
end

