-- ==== Sys2Proof/Machine/Assembler.lean ====
section
/-! DEFINITION. The spec's assembler syntax (30_encoding.md R114), as the text of a command. No command uses it; names
and operand order are those of the opcode table (R105). -/

namespace Sys2Proof.Machine

/-- The mnemonic of a command (R105). -/
def mnemonic : Instr → String
  | .nop => "NOP"
  | .zeroize => "ZEROIZE"
  | .baLen .. => "BA.LEN"
  | .baSlice .. => "BA.SLICE"
  | .baExtract .. => "BA.EXTRACT"
  | .baConcat .. => "BA.CONCAT"
  | .baClamp .. => "BA.CLAMP"
  | .baEqual .. => "BA.EQUAL"
  | .baPartial .. => "BA.PARTIAL"
  | .baGetPartial .. => "BA.GETPARTIAL"
  | .hexDec .. => "HEX.DEC"
  | .hexEnc .. => "HEX.ENC"
  | .b64Dec .. => "B64.DEC"
  | .b64Enc .. => "B64.ENC"
  | .aesKey .. => "AES.KEY"
  | .aesEnc .. => "AES.ENC"
  | .aesDec .. => "AES.DEC"
  | .hashReset .. => "HASH.RESET"
  | .hashUpdate .. => "HASH.UPDATE"
  | .hashFinal .. => "HASH.FINAL"
  | .hashDigest .. => "HASH.DIGEST"
  | .hmac .. => "HMAC"
  | .pbkdf2 .. => "PBKDF2"
  | .pbkdf2Init .. => "PBKDF2.INIT"
  | .pbkdf2Step .. => "PBKDF2.STEP"
  | .pbkdf2Read .. => "PBKDF2.READ"
  | .cbcEnc .. => "CBC.ENC"
  | .cbcDec .. => "CBC.DEC"
  | .ccmEnc .. => "CCM.ENC"
  | .ccmDec .. => "CCM.DEC"
  | .ocb2Enc .. => "OCB2.ENC"
  | .ocb2Dec .. => "OCB2.DEC"
  | .gcmEnc .. => "GCM.ENC"
  | .gcmDec .. => "GCM.DEC"
  | .rngAddentN .. => "RNG.ADDENT.N"
  | .rngAddentW .. => "RNG.ADDENT.W"
  | .rngAddentS .. => "RNG.ADDENT.S"
  | .rngIsReady .. => "RNG.ISREADY"
  | .rngWords .. => "RNG.WORDS"
  | .envDec .. => "ENV.DEC"
  | .envEnc .. => "ENV.ENC"
  | .envParse .. => "ENV.PARSE"
  | .envSer .. => "ENV.SER"
  | .md5 .. => "MD5"
  | .crc32 .. => "CRC32"
  | .rc2Key .. => "RC2.KEY"
  | .rc2Enc .. => "RC2.ENC"
  | .rc2Dec .. => "RC2.DEC"
  | .legacyDec .. => "LEGACY.DEC"
  | .legacyEnc .. => "LEGACY.ENC"
  | .enc0Dec .. => "ENC0.DEC"
  | .dispatchDec .. => "DISPATCH.DEC"

/-- The letter of a context slot: `H` for the hash commands, `K` for the others (R114). -/
def slotLetter (op : Byte) : String := if op.extractLsb' 4 4 = 0x3#4 then "H" else "K"

/-- The immediate of a command with this opcode as it is written: the six AEAD commands write the tag length in bits
(R114). -/
def immediateOf (op : Byte) (x : Nat) : Nat := if 0x52 ≤ op.toNat ∧ op.toNat ≤ 0x57 then 16 * x else x

/-- One operand as it is written, none for a field the command does not use (R114). -/
def operandText (op : Byte) (k : FieldKind) (x : BitVec 4) : List String :=
  match k with
  | .zero => []
  | .buf => ["B" ++ toString x.toNat]
  | .scal => ["S" ++ toString x.toNat]
  | .slot => [slotLetter op ++ toString x.toNat]
  | .imm4 => ["#" ++ toString (immediateOf op x.toNat)]
  | .flag1 => ["#" ++ toString x.toNat]
  | .flag2 => ["#" ++ toString x.toNat]

/-- The operands of a command, destination first, then the fields in order (R114). -/
def operandTexts (r : Row) (x : Fields) : List String :=
  operandText r.op r.a x.a ++ operandText r.op r.b x.b ++ operandText r.op r.c x.c ++ operandText r.op r.d x.d ++
    operandText r.op r.e x.e ++ operandText r.op r.f x.f

/-- A command in assembler syntax (R114). -/
def assemblerText (i : Instr) : String :=
  let x := encodeFields i
  match rows.find? (fun r => r.op == x.op) with
  | none => mnemonic i
  | some r =>
    match operandTexts r x with
    | [] => mnemonic i
    | t :: ts => mnemonic i ++ " " ++ t ++ (ts.map (fun u => ", " ++ u)).foldl (· ++ ·) ""

end Sys2Proof.Machine
end

