-- ==== Sys2Proof/Tests/Slice0.lean ====
section
/-! SUPPORT. The model's own tests: well-formedness, decoding of words written out from the encoding table, one-step
tests with values from the spec, and a witness for the hypotheses of each statement. -/

set_option Elab.async false

namespace Sys2Proof.Tests

open Sys2Proof Sys2Proof.Machine

/-! Well-formedness: each check refuses an ill-formed term. -/

theorem test_wellFormed_refuses_wide_tag :
    wellFormed (.ccmEnc 0 0 0 0 0 16) = false ∧ wellFormed (.ccmDec 0 0 0 0 0 16) = false ∧
    wellFormed (.ocb2Enc 0 0 0 0 0 16) = false ∧ wellFormed (.ocb2Dec 0 0 0 0 0 16) = false ∧
    wellFormed (.gcmEnc 0 0 0 0 0 16) = false ∧ wellFormed (.gcmDec 0 0 0 0 0 16) = false := by decide

theorem test_wellFormed_refuses_wide_level :
    wellFormed (.rngIsReady 0 16) = false ∧ wellFormed (.rngWords 0 0 16) = false := by decide

theorem test_wellFormed_accepts :
    wellFormed (.gcmDec 3 2 13 12 0 15) = true ∧ wellFormed (.rngWords 2 1 15) = true ∧ wellFormed .nop = true := by
  decide

/-! The masks of R106 are those of spec/opcode_table.json (in the order of the opcodes). -/

theorem test_row_masks : rows.map (fun r => (r.pattern, r.mask)) = ([
  (0x00000000, 0xFFFFFFFF), (0x01000000, 0xFF80FFFF), (0x02000000, 0xFF0088FF), (0x03000000, 0xFF8088FF),
  (0x04000000, 0xFF000FFF), (0x05000000, 0xFF008FFF), (0x06000000, 0xFF800FFF), (0x07000000, 0xFF088FFE),
  (0x08000000, 0xFF80FFFF), (0x0F000000, 0xFFFFFFFF), (0x10000000, 0xFF00FFFF), (0x11000000, 0xFF00FFFF),
  (0x12000000, 0xFF00FFFE), (0x13000000, 0xFF00FFFC), (0x20000000, 0xFFC0FFFF), (0x21000000, 0xFF00FFCF),
  (0x22000000, 0xFF00FFCF), (0x30000000, 0xFFCFFFFE), (0x31000000, 0xFFC0FFFF), (0x32000000, 0xFF0FFFCF),
  (0x33000000, 0xFF00FFFE), (0x40000000, 0xFF000FFE), (0x41000000, 0xFF00088E), (0x42000000, 0xFFF0088E),
  (0x43000000, 0xFF88FFFF), (0x44000000, 0xFF0FFFFF), (0x50000000, 0xFF0000CF), (0x51000000, 0xFF0000CF),
  (0x52000000, 0xFF0000C0), (0x53000000, 0xFF0000C0), (0x54000000, 0xFF0000C0), (0x55000000, 0xFF0000C0),
  (0x56000000, 0xFF0000C0), (0x57000000, 0xFF0000C0), (0x60000000, 0xFFF880FE), (0x61000000, 0xFFF080FE),
  (0x62000000, 0xFFF080FE), (0x63000000, 0xFF8FFFF0), (0x64000000, 0xFF0F8FF0), (0x70000000, 0xFF00FFFE),
  (0x71000000, 0xFFF00FFE), (0x72000000, 0xFFF0FFFF), (0x73000000, 0xFF0FFFFF), (0x80000000, 0xFF00FFFF),
  (0x81000000, 0xFF80FFFF), (0x82000000, 0xFFF08FFF), (0x83000000, 0xFF00FFFF), (0x84000000, 0xFF00FFFF),
  (0x85000000, 0xFF000FFF), (0x86000000, 0xFF000FFF), (0x90000000, 0xFF000FFF), (0x91000000, 0xFF00008F)
  ] : List (Word × Word)) := by decide

/-! Decoding of words written out from R101 and R105, family by family; every constructor once. -/

theorem test_decode_bitarray :
    decode 0x00000000 = .ok .nop ∧ decode 0x0F000000 = .ok .zeroize ∧ decode 0x01790000 = .ok (.baLen 7 9) ∧
    decode 0x02100100 = .ok (.baSlice 1 0 0 1) ∧ decode 0x03200100 = .ok (.baExtract 2 0 0 1) ∧
    decode 0x04201000 = .ok (.baConcat 2 0 1) ∧ decode 0x05F26000 = .ok (.baClamp 15 2 6) ∧
    decode 0x06345000 = .ok (.baEqual 3 4 5) ∧ decode 0x07201001 = .ok (.baPartial 2 0 1 true) ∧
    decode 0x08790000 = .ok (.baGetPartial 7 9) := by decide

theorem test_decode_codecs :
    decode 0x10120000 = .ok (.hexDec 1 2) ∧ decode 0x11340000 = .ok (.hexEnc 3 4) ∧
    decode 0x12120001 = .ok (.b64Dec 1 2 true) ∧ decode 0x13210002 = .ok (.b64Enc 2 1 false true) := by decide

theorem test_decode_aes_and_hash :
    decode 0x20390000 = .ok (.aesKey 3 9) ∧ decode 0x21210030 = .ok (.aesEnc 2 1 3) ∧
    decode 0x22320000 = .ok (.aesDec 3 2 0) ∧ decode 0x30100001 = .ok (.hashReset 1 .sha512) ∧
    decode 0x312E0000 = .ok (.hashUpdate 2 14) ∧ decode 0x32100020 = .ok (.hashFinal 1 2) ∧
    decode 0x33100000 = .ok (.hashDigest 1 0 .sha256) := by decide

theorem test_decode_mac :
    decode 0x40201000 = .ok (.hmac 2 0 1 .sha256) ∧ decode 0x41201010 = .ok (.pbkdf2 2 0 1 0 1 .sha256) ∧
    decode 0x42001010 = .ok (.pbkdf2Init 0 1 0 1 .sha256) ∧ decode 0x43230000 = .ok (.pbkdf2Step 2 3) ∧
    decode 0x44200000 = .ok (.pbkdf2Read 2) := by decide

theorem test_decode_modes :
    decode 0x5021DC00 = .ok (.cbcEnc 2 1 13 12 0) ∧ decode 0x5132DC00 = .ok (.cbcDec 3 2 13 12 0) ∧
    decode 0x5221DC14 = .ok (.ccmEnc 2 1 13 12 1 4) ∧ decode 0x5332DC28 = .ok (.ccmDec 3 2 13 12 2 8) ∧
    decode 0x5421DC08 = .ok (.ocb2Enc 2 1 13 12 0 8) ∧ decode 0x5532DC34 = .ok (.ocb2Dec 3 2 13 12 3 4) ∧
    decode 0x5621DC08 = .ok (.gcmEnc 2 1 13 12 0 8) ∧ decode 0x5732DC08 = .ok (.gcmDec 3 2 13 12 0 8) := by decide

theorem test_decode_rng :
    decode 0x60001301 = .ok (.rngAddentN 0 1 3 true) ∧ decode 0x61010000 = .ok (.rngAddentW 1 0 0 false) ∧
    decode 0x62010F01 = .ok (.rngAddentS 1 0 15 true) ∧ decode 0x63000006 = .ok (.rngIsReady 0 6) ∧
    decode 0x64201006 = .ok (.rngWords 2 1 6) := by decide

theorem test_decode_envelope :
    decode 0x70100001 = .ok (.envDec 1 0 true) ∧ decode 0x71002000 = .ok (.envEnc 0 2 false) ∧
    decode 0x72030000 = .ok (.envParse 3) ∧ decode 0x73300000 = .ok (.envSer 3) := by decide

theorem test_decode_legacy :
    decode 0x80100000 = .ok (.md5 1 0) ∧ decode 0x81560000 = .ok (.crc32 5 6) ∧
    decode 0x82065000 = .ok (.rc2Key 6 5) ∧ decode 0x83120000 = .ok (.rc2Enc 1 2) ∧
    decode 0x84120000 = .ok (.rc2Dec 1 2) ∧ decode 0x85201000 = .ok (.legacyDec 2 0 1) ∧
    decode 0x86103000 = .ok (.legacyEnc 1 0 3) ∧ decode 0x90201000 = .ok (.enc0Dec 2 0 1) ∧
    decode 0x91201370 = .ok (.dispatchDec 2 0 1 3 7) := by decide

theorem test_decode_illegal :
    decode 0x09000000 = .error (.reservedOpcode 0x09) ∧ decode 0xFFFFFFFF = .error (.reservedOpcode 0xFF) ∧
    decode 0x00000001 = .error (.badField 0x00) ∧ decode 0x01800000 = .error (.badField 0x01) ∧
    decode 0x20400000 = .error (.badField 0x20) ∧ decode 0x07000002 = .error (.badField 0x07) ∧
    decode 0x13000004 = .error (.badField 0x13) := by decide

theorem test_decodeTableWord :
    decodeTableWord 32 0x5732DC08 = some (.gcmDec 3 2 13 12 0 8) ∧ decodeTableWord 32 0x09000000 = none := by decide

/-! One step. The states are the reset state with a few registers set. -/

/-- The reset state with these buffers. -/
def withBufs (l : List (BufIx × Bits)) : State := l.foldl (fun s p => s.setBuf p.1 p.2) State.reset

/-- What a buffer holds after a command that answers a next state. -/
def bufAfter (o : Out) (a : BufIx) : Option Bits :=
  match o with
  | .next t => some (t.bufAt a)
  | _ => none

/-- What a scalar holds after a command that answers a next state. -/
def scalAfter (o : Out) (a : ScalIx) : Option Word :=
  match o with
  | .next t => some (t.scalAt a)
  | _ => none

/-- The error a command that answers a next state ended in. -/
def errAfter (o : Out) : Option (Option Err) :=
  match o with
  | .next t => some t.err.code
  | _ => none

/-- The host's words for a register after a command. -/
def readAfter (o : Out) (r : HostReg) : Option Word :=
  match o with
  | .next t => some (regRead t r)
  | _ => none

/-- The key `000102…0f` of the spec's examples. -/
def key0 : Bits := natToBits 128 0x000102030405060708090a0b0c0d0e0f

/-- The IV `101112…1f` of the spec's examples. -/
def iv0 : Bits := natToBits 128 0x101112131415161718191a1b1c1d1e1f

/-- `"Hello"`. -/
def hello : Bits := natToBits 40 0x48656c6c6f

/-- Key slot 0 keyed by `key0`, `B12` empty, `B13` the IV, and these buffers. -/
def keyed (l : List (BufIx × Bits)) : State := (withBufs ((13, iv0) :: l)).setKey 0 (aesContext key0)

/-- R130: after reset, `ISSUE 0x00000000` leaves `CMDCNT = 1`, `STATUS = 0x2`. -/
theorem test_nop_status :
    readAfter (step (State.reset.withFetchWord 32 0)) .status = some 0x2 ∧
    readAfter (step (State.reset.withFetchWord 32 0)) .cmdCnt = some 1 := by decide +kernel

/-- R112, R456: an illegal word is recorded with its opcode byte. -/
theorem test_illegal_status :
    readAfter (step (State.reset.withFetchWord 32 0x09000000)) .err = some 0x0916 ∧
    readAfter (step (State.reset.withFetchWord 32 0x09000000)) .status = some 0xE := by decide +kernel

/-- R131: after `ZEROIZE` the slot is empty. -/
theorem test_zeroize :
    (match exec .zeroize (keyed [(1, iv0)]) with
      | .next t => errAfter (exec (.aesEnc 1 1 0) t)
      | _ => none) = some (some .invalidState) := by decide +kernel

/-- R133, R140: the 12-bit string `0xABC`, and 72 bits. -/
theorem test_baLen :
    scalAfter (exec (.baLen 1 0) (withBufs [(0, natToBits 12 0xABC)])) 1 = some 12 ∧
    scalAfter (exec (.baGetPartial 1 0) (withBufs [(0, zeros 72)])) 1 = some 8 := by decide +kernel

/-- R134: `0xDEADBEEF`, 4 to 12, gives `0xEA`. -/
theorem test_baSlice :
    bufAfter (exec (.baSlice 1 0 0 1) (((withBufs [(0, natToBits 32 0xDEADBEEF)]).setScal 0 4).setScal 1 12)) 1 =
      some (natToBits 8 0xEA) := by decide +kernel

/-- R134: a slice past the end is `InvalidParameter` and empties the destination (R456). -/
theorem test_baSlice_error :
    errAfter (exec (.baSlice 0 0 0 1) ((withBufs [(0, zeros 8)]).setScal 1 9)) = some (some .invalidParameter) ∧
    bufAfter (exec (.baSlice 0 0 0 1) ((withBufs [(0, zeros 8)]).setScal 1 9)) 0 = some [] := by decide +kernel

/-- R135: `0xDEADBEEF`, 16 bits from bit 8, gives `0xADBE`. -/
theorem test_baExtract :
    scalAfter (exec (.baExtract 2 0 0 1) (((withBufs [(0, natToBits 32 0xDEADBEEF)]).setScal 0 8).setScal 1 16)) 2 =
      some 0xADBE := by decide +kernel

/-- R136: `0xA` (4 bits) and `0xBC` (8 bits) give `0xABC`. -/
theorem test_baConcat :
    bufAfter (exec (.baConcat 2 0 1) (withBufs [(0, natToBits 4 0xA), (1, natToBits 8 0xBC)])) 2 =
      some (natToBits 12 0xABC) := by decide +kernel

/-- R137, R138: clamping to 5 bits; strings of different length are unequal. -/
theorem test_baClamp_baEqual :
    bufAfter (exec (.baClamp 1 0 0) ((withBufs [(0, natToBits 32 0xFFFFFFFF)]).setScal 0 5)) 1 =
      some (natToBits 5 0x1F) ∧
    scalAfter (exec (.baEqual 1 0 2) (withBufs [(0, natToBits 8 0xAB), (2, natToBits 12 0xAB0)])) 1 = some 0 := by
  decide +kernel

/-- R139: low and high bits. -/
theorem test_baPartial :
    bufAfter (exec (.baPartial 0 0 1 false) ((State.reset.setScal 0 5).setScal 1 3)) 0 = some (natToBits 3 5) ∧
    bufAfter (exec (.baPartial 0 0 1 true) ((State.reset.setScal 0 0xA0000005).setScal 1 3)) 0 =
      some (natToBits 3 5) := by decide +kernel

/-- R143, R144: `"dEaD"` to `0xDEAD`, and back in lower case. -/
theorem test_hex :
    bufAfter (exec (.hexDec 1 0) (withBufs [(0, natToBits 32 0x64456144)])) 1 = some (natToBits 16 0xDEAD) ∧
    bufAfter (exec (.hexEnc 1 0) (withBufs [(0, natToBits 16 0xDEAD)])) 1 = some (natToBits 32 0x64656164) := by
  decide +kernel

/-- R146, R147: `"RU5DMA"` without padding decodes to `"ENC0"`, which encodes with padding. -/
theorem test_base64 :
    bufAfter (exec (.b64Dec 1 0 false) (withBufs [(0, natToBits 48 0x525535444D41)])) 1 =
      some (natToBits 32 0x454E4330) ∧
    bufAfter (exec (.b64Enc 1 0 false false) (withBufs [(0, natToBits 32 0x454E4330)])) 1 =
      some (natToBits 64 0x525535444D413D3D) := by decide +kernel

/-- R182, R184: the published block. -/
theorem test_aes :
    bufAfter (exec (.aesEnc 2 1 0) (keyed [(1, natToBits 128 0x00112233445566778899aabbccddeeff)])) 2 =
      some (natToBits 128 0x69c4e0d86a7b0430d8cdb78070b4c55a) ∧
    bufAfter (exec (.aesDec 2 1 0) (keyed [(1, natToBits 128 0x69c4e0d86a7b0430d8cdb78070b4c55a)])) 2 =
      some (natToBits 128 0x00112233445566778899aabbccddeeff) := by decide +kernel

/-- R174: 100 bits are no key, and the slot keeps what it held. -/
theorem test_aesKey_error :
    (match exec (.aesKey 0 1) (keyed [(1, zeros 100)]) with
      | .next t => decide (t.keyAt 0 = some (aesContext key0) ∧ t.err.code = some .invalidKeySize)
      | _ => false) = true := by decide +kernel

/-- R215: the digest of the empty message. -/
theorem test_sha256_empty :
    bufAfter (exec (.hashDigest 1 0 .sha256) State.reset) 1 =
      some (natToBits 256 0xe3b0c44298fc1c149afbf4c8996fb92427ae41e4649b934ca495991b7852b855) := by decide +kernel

/-- R213: after `HASH.UPDATE` with `"abc"` the context holds 24 pending bits and the initial value. -/
theorem test_hashUpdate :
    (match exec (.hashUpdate 0 0) ((withBufs [(0, natToBits 24 0x616263)]).setHash 0 (hashFresh .sha256)) with
      | .next t => t.hashAt 0
      | _ => none) = some (.sha256 { h := iv256, buf := natToBits 24 0x616263, len := 24 }) := by decide +kernel

/-- R214: the digest of `"abc"`, and the slot reset. -/
theorem test_hashFinal :
    (match exec (.hashFinal 1 0)
        (State.reset.setHash 0 (.sha256 { h := iv256, buf := natToBits 24 0x616263, len := 24 })) with
      | .next t => some (t.bufAt 1, t.hashAt 0)
      | _ => none) =
    some (natToBits 256 0xba7816bf8f01cfea414140de5dae2223b00361a396177a9cb410ff61f20015ad,
      some (hashFresh .sha256)) := by decide +kernel

/-- R232: the published HMAC of `"Hi There"`. -/
theorem test_hmac :
    bufAfter (exec (.hmac 2 0 1 .sha256)
        (withBufs [(0, natToBits 160 0x0b0b0b0b0b0b0b0b0b0b0b0b0b0b0b0b0b0b0b0b), (1, natToBits 64 0x4869205468657265)]))
      2 = some (natToBits 256 0xb0344c61d8db38535ca8afceaf0bf12b881dc200c9833da726e9376c2e32cff7) := by decide +kernel

/-- R238: `"password"`, `"salt"`, one round, 256 bits. -/
theorem test_pbkdf2 :
    bufAfter (exec (.pbkdf2 2 0 1 0 1 .sha256)
        (((withBufs [(0, natToBits 64 0x70617373776f7264), (1, natToBits 32 0x73616c74)]).setScal 0 1).setScal 1 256))
      2 = some (natToBits 256 0x120fb6cffcf8b32c43e7225256c4f837a86548c92ccc35480805987cb70be17b) := by decide +kernel

/-- R237, R240: a negative count is refused; a derivation of no bits is done at once. -/
theorem test_pbkdf2Init :
    errAfter (exec (.pbkdf2Init 0 1 0 1 .sha256) (State.reset.setScal 0 0x80000000)) = some (some .invalidParameter) ∧
    readAfter (exec (.pbkdf2Init 0 1 0 1 .sha512) State.reset) .pbkState = some 0x12 := by decide +kernel

/-- R242, R244: the engine commands fail in IDLE. -/
theorem test_engine_idle :
    errAfter (exec (.pbkdf2Step 0 1) State.reset) = some (some .invalidState) ∧
    errAfter (exec (.pbkdf2Read 0) State.reset) = some (some .invalidState) := by decide +kernel

/-- R262, R264: `"Hello"` in CBC, both ways. -/
theorem test_cbc :
    bufAfter (exec (.cbcEnc 2 1 13 12 0) (keyed [(1, hello)])) 2 =
      some (natToBits 128 0x00ac50094575fe3dbefeb306c4025bcc) ∧
    bufAfter (exec (.cbcDec 3 2 13 12 0) (keyed [(2, natToBits 128 0x00ac50094575fe3dbefeb306c4025bcc)])) 3 =
      some hello := by decide +kernel

/-- R265: a pad of 2 whose bytes are not uniform. -/
theorem test_cbc_padding :
    errAfter (exec (.cbcDec 3 2 13 12 0) (keyed [(2, natToBits 128 0x586e5740451e9b92dae016b0f9e3c90f)])) =
      some (some .corruptPadding) := by decide +kernel

/-- R278: `"Hello"` in CCM with a 16-byte IV, truncated to 13 bytes. -/
theorem test_ccm :
    bufAfter (exec (.ccmEnc 2 1 13 12 0 4) (keyed [(1, hello)])) 2 =
      some (natToBits 104 0x34841c2dd7e287ecb75301a6b6) ∧
    bufAfter (exec (.ccmDec 2 1 13 12 0 4) (keyed [(1, natToBits 104 0x34841c2dd7e287ecb75301a6b6)])) 2 =
      some hello := by decide +kernel

/-- R279: a flipped tag bit. -/
theorem test_ccm_tag :
    errAfter (exec (.ccmDec 2 1 13 12 0 4) (keyed [(1, natToBits 104 0x34841c2dd7e287ecb75301a6b7)])) =
      some (some .corruptTag) := by decide +kernel

/-- R299: the second OCB2 value, and its decryption. -/
theorem test_ocb2 :
    bufAfter (exec (.ocb2Enc 2 1 13 12 0 8) (keyed [(13, key0), (1, natToBits 64 0x0001020304050607)])) 2 =
      some (natToBits 192 0xc636b3a868f429bba45f5fdea5c088d1d7c8be37cabc8c5c) ∧
    bufAfter (exec (.ocb2Dec 2 1 13 12 0 8)
        (keyed [(13, key0), (1, natToBits 192 0xc636b3a868f429bba45f5fdea5c088d1d7c8be37cabc8c5c)])) 2 =
      some (natToBits 64 0x0001020304050607) := by decide +kernel

/-- R309, R311: `"Hello"` with `"hdr"` in GCM, both ways. -/
theorem test_gcm :
    bufAfter (exec (.gcmEnc 2 1 13 12 0 4)
        (keyed [(13, natToBits 96 0x101112131415161718191a1b), (12, natToBits 24 0x686472), (1, hello)])) 2 =
      some (natToBits 104 0x8c4b6fc360e577ae4663c1265f) ∧
    bufAfter (exec (.gcmDec 2 1 13 12 0 4)
        (keyed [(13, natToBits 96 0x101112131415161718191a1b), (12, natToBits 24 0x686472),
          (1, natToBits 104 0x8c4b6fc360e577ae4663c1265f)])) 2 = some hello := by decide +kernel

/-- R327: the first event after reset, from source 3. -/
theorem test_addent :
    (match exec (.rngAddentN 0 1 3 true) (State.reset.setScal 0 0xdeadbeef) with
      | .next t => some (t.rng.pool0.entropy, t.rng.poolStrength, t.rng.eventId, t.rng.pool0.ctx.len)
      | _ => none) = some (1, 1, 1, 224) := by decide +kernel

/-- R328, R329: default estimates 41 and 5. -/
theorem test_addent_estimates :
    (match exec (.rngAddentW 0 1 1 true) (withBufs [(0, natToBits 128 0x800000000000000100000000000000ff)]) with
      | .next t => some t.rng.poolStrength
      | _ => none) = some 41 ∧
    (match exec (.rngAddentS 0 1 1 true) (withBufs [(0, natToBits 40 0x6d6f757365)]) with
      | .next t => some t.rng.poolStrength
      | _ => none) = some 5 := by decide +kernel

/-- R333, R338, R323: not ready after reset; no words; levels 11 to 14 are refused. -/
theorem test_rng_reset :
    scalAfter (exec (.rngIsReady 0 6) State.reset) 0 = some 0 ∧
    errAfter (exec (.rngWords 2 1 6) State.reset) = some (some .generatorNotSeeded) ∧
    errAfter (exec (.rngIsReady 0 11) State.reset) = some (some .invalidParameter) := by decide +kernel

/-- The generator of R341 (trace 1) before its step 4: 320 bits in pool 0, 256 bits of entropy. -/
def trace1Fed : Prng :=
  { Prng.reset with
    pool0 :=
      { ctx :=
          { h := iv256, len := 320
            buf := natToBits 320 0x000000000000000000000002_00000100000003e8000000040123456789abcdeffedcba9876543210 }
        entropy := 256 }
    poolStrength := 256, eventId := 1 }

/-- R341: the full reseed of step 4. -/
theorem test_reseed :
    (reseed true 1000 (zeros 512) trace1Fed).key = 0x67f18a789ea8391a2d8c1180919711524f9ad32e46f3a002fa114c2178cd426c ∧
    (reseed true 1000 (zeros 512) trace1Fed).strength = 256 := by decide +kernel

/-- The generator of R341 (trace 1) after its step 4. -/
def trace1Ready : Prng :=
  let key : BitVec 256 := 0x615fc21abcd526722811d96b09d794a1338fba82accc410f9f0bd45dee6af95c
  { Prng.reset with
    strength := 256, reseedCount := 1, eventId := 1, nextReseed := 31000, key := key, ctr := ⟨5, 0, 0, 0⟩
    cipher := some (keyCipher key) }

/-- R341: the four words of step 6, and the counter after it. -/
theorem test_rngWords :
    (match exec (.rngWords 3 0 6) (((withBufs []).setRng trace1Ready).setScal 0 4) with
      | .next t => some (t.bufAt 3, t.rng.ctr)
      | _ => none) = some (natToBits 128 0xba80071da5f3ffdac55122dfa4d772b3, ⟨8, 0, 0, 0⟩) := by decide +kernel

/-- R369(c): a raw key in CCM, into `B15`. -/
theorem test_envEnc :
    bufAfter (exec (.envEnc 0 1 true)
        (withBufs [(0, natToBits 128 0xc0c1c2c3c4c5c6c7c8c9cacbcccdcecf), (12, natToBits 64 0x0001020304050607),
          (13, natToBits 104 0x00000003020100a0a1a2a3a4a5),
          (1, natToBits 184 0x08090a0b0c0d0e0f101112131415161718191a1b1c1d1e)])) 15 =
      some (natToBits 248 0x588c979a61c663d2f066d0c2c0f989806d5f6b61dac38417e8d12cfdf926e0) := by decide +kernel

/-- R369(c), R369(d): decryption of the same; 100 iterations are too few for a passphrase. -/
theorem test_envDec :
    bufAfter (exec (.envDec 1 0 true)
        (withBufs [(0, natToBits 128 0xc0c1c2c3c4c5c6c7c8c9cacbcccdcecf), (12, natToBits 64 0x0001020304050607),
          (13, natToBits 104 0x00000003020100a0a1a2a3a4a5),
          (15, natToBits 248 0x588c979a61c663d2f066d0c2c0f989806d5f6b61dac38417e8d12cfdf926e0)])) 1 =
      some (natToBits 184 0x08090a0b0c0d0e0f101112131415161718191a1b1c1d1e) ∧
    errAfter (exec (.envDec 1 0 false) ((withBufs [(13, iv0)]).setEnv ⟨1, 100, 128, 64, 0, 0⟩)) =
      some (some .invalidParameter) := by decide +kernel

/-- R374: an envelope text with a number that keeps its leading zeros, and a duplicate name. -/
theorem test_envParse :
    (match exec (.envParse 0) (withBufs [(0, ofBytes (0x7B :: ascii ['"', 'i', 't', 'e', 'r', '"', ':', '0', '0', '5']
        ++ [0x7D]))]) with
      | .next t => some (t.env.iter, t.err.code)
      | _ => none) = some (5, none) ∧
    errAfter (exec (.envParse 0) (withBufs [(0, ofBytes (0x7B :: ascii ['v', ':', '1', ',', 'v', ':', '1'] ++ [0x7D]))])) =
      some (some .invalidEnvelope) := by decide +kernel

/-- R372: an unknown mode does not serialise; the text of the default record begins with its version. -/
theorem test_envSer :
    errAfter (exec (.envSer 0) (State.reset.setEnv ⟨1, 1000, 128, 64, 4, 0⟩)) = some (some .unsupportedMode) ∧
    (bufAfter (exec (.envSer 0) State.reset) 0).map (fun x => (bytesOf x).take 7) =
      some (0x7B :: ascii ['"', 'v', '"', ':', '1', ',']) := by decide +kernel

/-- R394, R398: `"secret"` in MD5, `"123456789"` in CRC-32. -/
theorem test_md5_crc32 :
    bufAfter (exec (.md5 1 0) (withBufs [(0, natToBits 48 0x736563726574)])) 1 =
      some (natToBits 128 0x5ebe2294ecd0e0f08eab7690d2a6ee69) ∧
    scalAfter (exec (.crc32 0 0) (withBufs [(0, natToBits 72 0x313233343536373839)])) 0 = some 0xCBF43926 := by
  decide +kernel

/-- R403, R409: the key of eight bytes `3000000000000000`. -/
theorem test_rc2 :
    (match exec (.rc2Key 0 0) ((withBufs [(0, natToBits 64 0x3000000000000000),
        (1, natToBits 64 0x1000000000000001), (2, natToBits 64 0x30649edf9be7d2c2)]).setScal 0 64) with
      | .next t => (bufAfter (exec (.rc2Enc 3 1) t) 3, bufAfter (exec (.rc2Dec 3 2) t) 3)
      | _ => (none, none)) =
    (some (natToBits 64 0x30649edf9be7d2c2), some (natToBits 64 0x1000000000000001)) := by decide +kernel

/-- The text `"JDdkw9KkKWM="` of R415, the blob of `"abcd"`. -/
def abcdBlob : Bits := ofBytes (ascii ['J', 'D', 'd', 'k', 'w', '9', 'K', 'k', 'K', 'W', 'M', '='])

/-- R415: `"abcd"` under `"secret"`, both ways. -/
theorem test_legacy :
    bufAfter (exec (.legacyEnc 2 0 1) (withBufs [(0, natToBits 48 0x736563726574), (1, natToBits 32 0x61626364)])) 2 =
      some abcdBlob ∧
    bufAfter (exec (.legacyDec 2 0 1) (withBufs [(0, natToBits 48 0x736563726574), (1, abcdBlob)])) 2 =
      some (natToBits 32 0x61626364) := by decide +kernel

/-- R415: the empty blob is `BadPassword`. -/
theorem test_legacy_error :
    errAfter (exec (.legacyDec 2 0 1) State.reset) = some (some .badPassword) := by decide +kernel

/-- R436: a blob that is not framed is `BadPassword`. -/
theorem test_enc0_error : errAfter (exec (.enc0Dec 2 0 1) (withBufs [(1, abcdBlob)])) = some (some .badPassword) := by
  decide +kernel

/-- R441: tag `"RC2"` runs the legacy pipeline; tag `"rc2"` is not recognised. -/
theorem test_dispatch :
    bufAfter (exec (.dispatchDec 2 0 1 3 0)
        (withBufs [(0, natToBits 48 0x736563726574), (1, abcdBlob), (3, natToBits 24 0x524332)])) 2 =
      some (natToBits 32 0x61626364) ∧
    errAfter (exec (.dispatchDec 2 0 1 3 0) (withBufs [(3, natToBits 24 0x726332)])) =
      some (some .unsupportedCipher) := by decide +kernel

/-- R149, R150: the euro sign in three bytes; the legacy decoder says nothing of a four-byte sequence. -/
theorem test_utf8 :
    utf8Encode [0x20AC] = [0xE2, 0x82, 0xAC] ∧ utf8Decode [0xE2, 0x82, 0xAC] = some [0x20AC] ∧
    utf8DecodeLegacy [0xE2, 0x82, 0xAC] = some [0x20AC] ∧ utf8DecodeLegacy [0xF0, 0x9F, 0x98, 0x80] = none := by
  decide +kernel

/-- U3: neither decoder says anything of an over-long form, a truncated sequence or a bad continuation byte. -/
theorem test_utf8_ill_formed :
    ∀ t ∈ ([[0xC0, 0x80], [0xE0, 0x80, 0x80], [0xE2, 0x82], [0xC3, 0x29]] : List (List Byte)),
      utf8Decode t = none ∧ utf8DecodeLegacy t = none := by decide +kernel

/-- R114: the spec's example in assembler syntax. -/
theorem test_assembler :
    assemblerText (.gcmDec 3 2 13 12 0 8) = "GCM.DEC B3, B2, B13, B12, K0, #128" := by decide +kernel

/-! Witnesses: for each statement that has hypotheses, a state and operands that meet them all, and one for each of its
clauses. -/

/-- The reset state with these actions to come. -/
def toCome (l : List HostAction) : State := { State.reset with hostIn := l }

/-- The reset state with 40 bits in buffer 0 and these actions to come. -/
def portState (l : List HostAction) : State := { withBufs [(0, hello)] with hostIn := l }

theorem witness_DecodeEncode :
    wellFormed (.gcmDec 15 15 15 15 3 15) = true ∧ wellFormed (.rngWords 0 7 15) = true ∧
    wellFormed (.b64Enc 15 0 true false) = true := by decide

theorem witness_EncodeDecode : decode 0x5732DC08 = .ok (.gcmDec 3 2 13 12 0 8) := by decide

theorem witness_IllegalWord :
    (toCome [.write 0x000 4 0x09000000, .write 0x000 4 0x00000001]).hostIn =
      .write 0x000 4 0x09000000 :: [.write 0x000 4 0x00000001] ∧
    (∀ r ∈ rows, (0x09000000 : Word) &&& r.mask ≠ r.pattern) ∧
    (toCome [.write 0x000 4 0x00000001]).hostIn = [.write 0x000 4 0x00000001] ∧
    (∀ r ∈ rows, (0x00000001 : Word) &&& r.mask ≠ r.pattern) := by decide

theorem witness_StepRunsDecodedCommand :
    (State.reset.withFetchWord 32 0x01790000).hostIn = [.write 0x000 4 0x01790000] ∧
    decode 0x01790000 = .ok (.baLen 7 9) := by decide

theorem witness_HostReads :
    (portState [.read 0x04C 4]).hostIn = [.read 0x04C 4] ∧
    (portState [.read 0x04C 4]).bptr.toNat < (((portState [.read 0x04C 4]).bufAt (portState [.read 0x04C 4]).bsel).length + 31) / 32 ∧
    (toCome [.read 0x004 4]).hostIn = [.read 0x004 4] ∧ State.reset.hostIn = [] := by decide +kernel

/-- Every reserved range at its ends, and misaligned addresses. -/
theorem witness_UnreachableAccess (a : BitVec 12)
    (h : a ∈ ([0x01C, 0x05C, 0x078, 0x07C, 0x088, 0x0BC, 0x100, 0xFFC, 0xFFF, 0x041, 0x001] : List (BitVec 12))) :
    (4 : Nat) ≠ 4 ∨ a.toNat % 4 ≠ 0 ∨ a.toNat = 0x01C ∨ a.toNat = 0x05C ∨ a.toNat = 0x078 ∨ a.toNat = 0x07C ∨
      (0x088 ≤ a.toNat ∧ a.toNat ≤ 0x0BC) ∨ 0x100 ≤ a.toNat := by
  simp only [List.mem_cons, List.not_mem_nil, or_false] at h
  rcases h with rfl | rfl | rfl | rfl | rfl | rfl | rfl | rfl | rfl | rfl | rfl <;> simp

/-- The neighbours of the reserved ranges are registers; the last read-only register is in the list of those. -/
theorem witness_UnreachableAccess_neighbours :
    hostReg 0x018 4 = .id ∧ hostReg 0x020 4 = .scal 0 ∧ hostReg 0x058 4 = .pbkIter ∧ hostReg 0x060 4 = .env .v ∧
    hostReg 0x074 4 = .env .cipher ∧ hostReg 0x080 4 = .timeLo ∧ hostReg 0x084 4 = .timeHi ∧
    hostReg 0x0C0 4 = .noise 0 ∧ hostReg 0x0FC 4 = .noise 15 ∧
    (0x058 : BitVec 12) ∈ ([0x004, 0x008, 0x010, 0x018, 0x050, 0x054, 0x058] : List (BitVec 12)) :=
  ⟨rfl, rfl, rfl, rfl, rfl, rfl, rfl, rfl, rfl, by decide⟩

/-- At any address, by an access of any size. -/
theorem witness_UnreachableAccess_actions (a : BitVec 12) (size : Nat) (v : Word) :
    (toCome [.read a size]).hostIn = [.read a size] ∧ (toCome [.write a size v]).hostIn = [.write a size v] :=
  ⟨rfl, rfl⟩

theorem witness_PortWrites :
    (toCome [.write 0x040 4 17]).hostIn = [.write 0x040 4 17] ∧
    (toCome [.write 0x044 4 40]).hostIn = [.write 0x044 4 40] ∧ fitsBuf (40#32).toNat = true ∧
    (toCome [.write 0x048 4 1]).hostIn = [.write 0x048 4 1] ∧
    (portState [.write 0x04C 4 5]).hostIn = [.write 0x04C 4 5] ∧
    (portState [.write 0x04C 4 5]).bptr.toNat <
      (((portState [.write 0x04C 4 5]).bufAt (portState [.write 0x04C 4 5]).bsel).length + 31) / 32 ∧
    (toCome [.write 0x04C 4 5]).hostIn = [.write 0x04C 4 5] := by decide +kernel

theorem witness_RegisterWrites :
    (toCome [.write 0x00C 4 1]).hostIn = [.write 0x00C 4 1] ∧
    (toCome [.write 0x014 4 10]).hostIn = [.write 0x014 4 10] ∧
    (toCome [.write 0x014 4 11]).hostIn = [.write 0x014 4 11] ∧
    (toCome [.write 0x03C 4 9]).hostIn = [.write (BitVec.ofNat 12 (0x020 + 4 * (7 : ScalIx).val)) 4 9] ∧
    (∀ a ∈ ([0x060, 0x064, 0x068, 0x06C, 0x070, 0x074, 0x080, 0x084] : List (BitVec 12)),
      (toCome [.write a 4 9]).hostIn = [.write a 4 9]) ∧
    (toCome [.write 0x0FC 4 9]).hostIn = [.write (BitVec.ofNat 12 (0x0C0 + 4 * (15 : Fin 16).val)) 4 9] ∧
    (toCome [.read 0x0C0 4]).hostIn = [.read (BitVec.ofNat 12 (0x0C0 + 4 * (0 : Fin 16).val)) 4] ∧
    (toCome [.setTime 7]).hostIn = [.setTime 7] ∧
    (toCome [.setNoise (Vector.replicate 16 3)]).hostIn = [.setNoise (Vector.replicate 16 3)] ∧
    (toCome [.reset]).hostIn = [.reset] :=
  ⟨rfl, rfl, rfl, rfl, fun _ _ => rfl, rfl, rfl, rfl, rfl, rfl⟩

theorem witness_LoadThenRead :
    fitsBuf hello.length = true ∧ hello.length < 2 ^ 32 ∧
    (toCome (macroLoadB 3 hello ++ macroReadB 3 hello.length ++ [.read 0x004 4])).hostIn =
      macroLoadB 3 hello ++ macroReadB 3 hello.length ++ [.read 0x004 4] := by decide +kernel

/-- Two states that differ in a key slot, a hash slot, `RK`, the generator and `NOISE` show the host the same. -/
theorem witness_SecretsHidden :
    SameToHost
      { (((toCome [.read 0x050 4]).setKey 0 (aesContext key0)).setHash 1 (hashFresh .sha512)).setRk (Vector.replicate 64 1) with
        rng := { Prng.reset with key := 5 }, noise := Vector.replicate 16 3 }
      (toCome [.read 0x050 4]) :=
  ⟨rfl, rfl, rfl, rfl, ⟨rfl, rfl, rfl⟩, rfl, ⟨rfl, rfl⟩, rfl, ⟨rfl, rfl⟩, ⟨rfl, rfl, rfl, rfl⟩, ⟨rfl, rfl⟩⟩

/-- A state in which the last command failed meets `StatusInv`, and a step from it answers a next state. -/
theorem witness_StepKeepsStatus :
    StatusInv ((toCome [.write 0x00C 4 0]).fail 0x21 .invalidState) ∧
    step ((toCome [.write 0x00C 4 0]).fail 0x21 .invalidState) =
      .next (ackErrors ((toCome []).fail 0x21 .invalidState)) := by
  refine ⟨⟨rfl, ?_, ?_, ?_, ?_⟩, rfl⟩ <;> decide

/-- A state with a full key slot and a full hash slot meets `SlotInv`, and a step from it answers a next state. -/
theorem witness_StepKeepsSlots :
    SlotInv (((toCome [.read 0x004 4]).setKey 2 (aesContext key0)).setHash 1 (hashFresh .sha256)) ∧
    ∃ t, step (((toCome [.read 0x004 4]).setKey 2 (aesContext key0)).setHash 1 (hashFresh .sha256)) = .next t := by
  refine ⟨⟨?_, ?_⟩, _, rfl⟩
  · intro i c h
    match i, h with
    | 0, h => cases h
    | 1, h => cases h
    | 2, h => exact ⟨key0, by decide +kernel, by cases h; rfl⟩
    | 3, h => cases h
  · intro i c h
    match i, h with
    | 0, h => cases h
    | 1, h => cases h; exact ⟨rfl, by decide⟩
    | 2, h => cases h
    | 3, h => cases h

/-- A state with a running engine meets `BufferInv`, and a step from it answers a next state. -/
theorem witness_StepKeepsBuffers :
    BufferInv ((portState [.write 0x044 4 8]).setPbk (pbkStart .sha256 hello [] 2 8)) ∧
    ∃ t, step ((portState [.write 0x044 4 8]).setPbk (pbkStart .sha256 hello [] 2 8)) = .next t := by
  refine ⟨⟨by decide +kernel, ?_⟩, _, rfl⟩
  refine ⟨?_, ?_, ?_, ?_, ?_, ?_, ?_, ?_, ?_, ?_, ?_⟩ <;> decide +kernel

/-- A generator that has been seeded meets `GeneratorInv`. -/
def seededPrng : Prng := { Prng.reset with strength := 100, key := 9, cipher := some (keyCipher 9) }

theorem seededPrng_inv : GeneratorInv seededPrng := by
  refine ⟨by decide, by decide, by decide, ?_, ?_, ?_⟩
  · intro x hx
    have hx' : x = { ctx := ShaState.fresh256, entropy := 0 } := List.mem_singleton.mp hx
    subst hx'
    exact ⟨rfl, by decide⟩
  · intro _ h
    cases h
  · intro c h
    cases h
    rfl

/-- So does a generator that has taken one event and was never seeded. -/
def fedPrng : Prng :=
  { Prng.reset with
    pool0 := { ctx := { h := iv256, buf := zeros 224, len := 224 }, entropy := 1 }, poolStrength := 1, eventId := 1 }

theorem fedPrng_inv : GeneratorInv fedPrng := by
  refine ⟨by decide, by decide, by decide, ?_, ?_, ?_⟩
  · intro x hx
    have hx' : x = { ctx := { h := iv256, buf := zeros 224, len := 224 }, entropy := 1 } := List.mem_singleton.mp hx
    subst hx'
    exact ⟨by decide +kernel, by decide⟩
  · intro h
    exact absurd h (by decide)
  · intro c h
    cases h

theorem witness_StepKeepsGenerator :
    GeneratorInv ((toCome [.read 0x004 4]).setRng seededPrng).rng ∧
    ∃ t, step ((toCome [.read 0x004 4]).setRng seededPrng) = .next t :=
  ⟨seededPrng_inv, _, rfl⟩

theorem witness_NoStepStops : GeneratorInv ((toCome [.write 0x000 4 0x64201006]).setRng seededPrng).rng := seededPrng_inv

theorem witness_CommandEnds :
    exec (.aesEnc 1 1 0) State.reset = .next (State.reset.failedTo 0x21 1 .invalidState) ∧
    (State.reset.failedTo 0x21 1 .invalidState).status.err = true ∧
    exec (.aesKey 0 0) State.reset = .next (State.reset.fail 0x20 .invalidKeySize) ∧
    (State.reset.fail 0x20 .invalidKeySize).status.err = true ∧
    exec .nop State.reset = .next (State.reset.succeed 0x00) ∧ (State.reset.succeed 0x00).status.err = false :=
  ⟨rfl, rfl, rfl, rfl, rfl, rfl⟩

theorem witness_CommandFrame :
    exec (.baClamp 1 0 0) (withBufs [(0, hello)]) = .next ((withBufs [(0, hello)]).wrote 0x05 1 []) := rfl

theorem witness_ErrorsListed :
    (∀ b, (State.reset.bufAt b).length < 2 ^ 32) ∧
    exec (.pbkdf2Read 3) State.reset = .next (State.reset.failedTo 0x44 3 .invalidState) ∧
    (State.reset.failedTo 0x44 3 .invalidState).status.err = true ∧
    (State.reset.failedTo 0x44 3 .invalidState).err.code = some .invalidState :=
  ⟨by decide +kernel, rfl, rfl, rfl⟩

theorem witness_EntropyCommands :
    GeneratorInv (State.reset.setRng fedPrng).rng ∧
    (State.reset.setRng fedPrng).rng.poolStrength.toNat + 1 < 2 ^ 32 ∧
    fedBits (State.reset.setRng fedPrng).rng 15 + 192 + 32 < 2 ^ 64 := ⟨fedPrng_inv, by decide, by decide⟩

/-- Both ways to generate: a seeded generator, and one that has to be reseeded first. -/
theorem witness_GeneratorCommands :
    GeneratorInv (State.reset.setRng seededPrng).rng ∧ GeneratorInv (State.reset.setRng fedPrng).rng ∧
    strengthReady seededPrng 96 = true ∧ strengthReady fedPrng 0 = false ∧ readiness fedPrng 0 0 = .requiresReseed :=
  ⟨seededPrng_inv, fedPrng_inv, by decide, by decide, by decide⟩

theorem witness_CodecRoundTrip :
    hexEncode (natToBits 16 0xDEAD) = .ok (natToBits 32 0x64656164) ∧
    b64Encode false false (natToBits 32 0x454E4330) = .ok (natToBits 64 0x525535444D413D3D) ∧
    ((natToBits 8 0x67).length % 8 = 0 ∧ ∃ c ∈ bytesOf (natToBits 8 0x67), hexVal c = none) ∧
    ((natToBits 8 0x2D).length % 8 = 0 ∧
      ∃ c ∈ bytesOf (natToBits 8 0x2D), isSpace c = false ∧ c ≠ 0x3D ∧ b64Val false c = none) := by
  refine ⟨?_, ?_, ⟨?_, 0x67, ?_, ?_⟩, ?_, 0x2D, ?_, ?_, ?_, ?_⟩ <;> decide +kernel

theorem witness_BitStringLaws :
    (natToBits 40 5).length % 8 = 0 ∧ wordCount hello = wordCount hello ∧ partialCount hello = partialCount hello ∧
    ∀ i < wordCount hello, wordAt hello i = wordAt hello i := ⟨by decide +kernel, rfl, rfl, fun _ _ => rfl⟩

theorem witness_TableForms : (0xFF : Byte) ≠ 0 := by decide

theorem witness_AesEquivalentDecryption :
    isAesKeyLength key0.length = true ∧ isAesKeyLength (zeros 192).length = true ∧
    isAesKeyLength (zeros 256).length = true := by decide +kernel

theorem witness_HashConstants : (iv256.a, 2) ∈ [iv256.a, iv256.b].zip [2, 3] := by decide

theorem witness_HashStreaming :
    ((withBufs [(0, hello)]).bufAt 0).length + ((withBufs [(0, hello)]).bufAt 1).length < 2 ^ 64 := by decide +kernel

theorem witness_PaddedMessage :
    (zeros 447).length < 512 ∧ (zeros 448).length < 512 ∧ (zeros 895).length < 1024 ∧ (zeros 896).length < 1024 := by
  decide +kernel

theorem witness_Sha512Halves : (0 < 1 ∧ 1 < 64) ∧ (0 < 63 ∧ 63 < 64) ∧ (zeros 1024).length = 1024 ∧ 15 < 16 := by
  decide +kernel

theorem witness_HmacAndPbkdf2Laws :
    hashBlockBits .sha256 < (zeros 513).length ∧ (zeros 512).length + 0 ≤ hashBlockBits .sha256 ∧
    hello.length + 984 ≤ hashBlockBits .sha512 ∧ 0 ≤ 8 := by decide +kernel

theorem witness_ChunkedPbkdf2 :
    (([0, 1, 5] : List Nat).foldl (fun e q => pbkSteps q e) (pbkStart .sha256 [] [] 2 8)).state = .done := by
  decide +kernel

theorem witness_CbcRoundTrip :
    cbcEncrypt (aesContext key0) hello iv0 [] = .ok (natToBits 128 0x00ac50094575fe3dbefeb306c4025bcc) := by
  decide +kernel

theorem witness_CcmRoundTrip :
    ccmEncrypt (aesContext key0) hello iv0 [] 64 = .ok (natToBits 104 0x34841c2dd7e287ecb75301a6b6) := by decide +kernel

theorem witness_Ocb2RoundTrip :
    ocbEncrypt (aesContext key0) (natToBits 64 0x0001020304050607) key0 [] 128 =
      .ok (natToBits 192 0xc636b3a868f429bba45f5fdea5c088d1d7c8be37cabc8c5c) := by decide +kernel

theorem witness_GcmRoundTrip :
    gcmEncrypt (aesContext key0) hello (natToBits 96 0x101112131415161718191a1b) (natToBits 24 0x686472) 64 =
      .ok (natToBits 104 0x8c4b6fc360e577ae4663c1265f) := by decide +kernel

theorem witness_GeneratorReseed :
    fedPrng.pools[0]? = some { ctx := { h := iv256, buf := zeros 224, len := 224 }, entropy := 1 } ∧
    State.reset.rng.strength = 0 ∧ State.reset.rng.poolStrength = 0 ∧ 10 ≤ 10 ∧
    fitsBuf (32 * State.reset.natAt 0) = true := by decide +kernel

/-- Each clause on reseeds, counters and bursts has its case: a pool that is taken, one that is not, one that is added, a
burst that is full and one that is not. -/
theorem witness_GeneratorReseed_cases :
    reseedTakes false { fedPrng with reseedCount := 2 } 1 = true ∧
    reseedTakes false { fedPrng with reseedCount := 2 } 2 = false ∧
    fedPrng.npools < 32 ∧ 2 ^ fedPrng.npools ≤ ({ fedPrng with reseedCount := 2 } : Prng).reseedCount.toNat ∧
    65536 ≤ 65536 ∧ 65536 < 65537 := by decide

/-- A text of the grammar, as R370 makes it: `v:1` in braces. -/
theorem witness_EnvelopeCommands_text :
    IsEnvelope ([0x7B] ++ ascii ['v', ':', '1'] ++ [0x7D]) [(ascii ['v'], .integer 1)] := by
  refine ⟨[ascii ['v', ':', '1']], by simp, .cons ⟨ascii ['v'], ascii ['1'], by decide, ?_, ?_⟩ .nil, by decide⟩
  · exact ⟨by decide, by decide, .inl rfl⟩
  · exact .integer (ascii ['1']) (by decide) (by decide)

/-- The state whose buffer 0 holds that text meets the hypotheses of the clause on it. -/
theorem witness_EnvelopeCommands :
    let b := (withBufs [(0, ofBytes ([0x7B] ++ ascii ['v', ' ', ':', '1'] ++ [0x7D]))]).bufAt 0
    b.length % 8 = 0 ∧ (∀ c ∈ bytesOf b, c.toNat < 0x80) ∧
    ((bytesOf b).filter fun c => !([0x09, 0x0A, 0x0B, 0x0C, 0x0D, 0x20] : List Byte).contains c) =
      [0x7B] ++ ascii ['v', ':', '1'] ++ [0x7D] := by decide +kernel

/-- The clauses on texts that are refused: an odd length, a byte above 0x7F, the empty text. -/
theorem witness_EnvelopeCommands_refused :
    (zeros 7).length % 8 ≠ 0 ∧ (ofBytes [0x80]).length % 8 = 0 ∧ (∃ c ∈ bytesOf (ofBytes [0x80]), 0x80 ≤ c.toNat) ∧
    ∀ ps, ¬ IsEnvelope [] ps :=
  ⟨by decide, by decide, ⟨0x80, by decide, by decide⟩, fun _ ⟨_, _, _, h⟩ => by simp at h⟩

/-- The record of R369(c). -/
def record369c : EnvRecord :=
  { regs := EnvRegs.reset, adata := natToBits 64 0x0001020304050607
    iv := natToBits 104 0x00000003020100a0a1a2a3a4a5, salt := [], ct := [] }

theorem witness_EnvelopeRoundTrip :
    envEncrypt record369c (natToBits 128 0xc0c1c2c3c4c5c6c7c8c9cacbcccdcecf) true
        (natToBits 184 0x08090a0b0c0d0e0f101112131415161718191a1b1c1d1e) =
      .ok (natToBits 248 0x588c979a61c663d2f066d0c2c0f989806d5f6b61dac38417e8d12cfdf926e0) := by decide +kernel

theorem witness_EnvelopeTextRoundTrip :
    envSerialize record369c = .ok (ofBytes (record369c.text .ccm)) := by decide +kernel

theorem witness_Rc2Inverse : (natToBits 64 0x1000000000000001).length = 64 := by decide +kernel

theorem witness_LegacyRoundTrip :
    (natToBits 32 0x61626364).length % 8 = 0 ∧ (bytesOf (natToBits 32 0x61626364)).getLast? ≠ some 0 ∧
    legacyEncrypt (natToBits 48 0x736563726574) (natToBits 32 0x61626364) = .ok abcdBlob := by decide +kernel

/-- Any key will do for the empty plaintext. -/
theorem witness_Enc0Accepts :
    (zeros 128).length = 128 ∧
    ∀ k : AesCtx, ∃ ct, cbcEncrypt k [] (zeros 128) [] = .ok ct := by
  refine ⟨by decide +kernel, fun k => ?_⟩
  have hi : (zeros 128).length = 128 := by decide +kernel
  have hp : fitsBuf (cbcPadded []).length = true := by decide +kernel
  simp [cbcEncrypt, cbcChecks, hi, wholeBytes, capacity, hp]

end Sys2Proof.Tests
end

section
/-! Laws of bit strings (00_scope.md R11; 10_state.md R20; 20_memory.md R77): strings and numbers, strings and
machine words, strings and their pieces, byte strings, the word representation. -/

namespace Sys2Proof.Machine

/-! Strings and numbers (R11) -/

@[simp] theorem bitsToNat_nil : bitsToNat [] = 0 := rfl

theorem bitsToNat_concat (x : Bits) (b : Bool) : bitsToNat (x ++ [b]) = 2 * bitsToNat x + b.toNat := by
  simp [bitsToNat, List.foldl_append]

theorem bitsToNat_append (x y : Bits) : bitsToNat (x ++ y) = bitsToNat x * 2 ^ y.length + bitsToNat y := by
  induction y using List.reverseRecOn with
  | nil => simp
  | append_singleton y b ih =>
    rw [← List.append_assoc, bitsToNat_concat, bitsToNat_concat, ih, List.length_append, List.length_singleton]
    ring

theorem bitsToNat_cons (b : Bool) (x : Bits) : bitsToNat (b :: x) = b.toNat * 2 ^ x.length + bitsToNat x := by
  simpa [bitsToNat] using bitsToNat_append [b] x

theorem bitsToNat_lt (x : Bits) : bitsToNat x < 2 ^ x.length := by
  induction x using List.reverseRecOn with
  | nil => simp
  | append_singleton x b ih =>
    have hb := b.toNat_lt
    rw [bitsToNat_concat, List.length_append, List.length_singleton, Nat.pow_succ]
    omega

@[simp] theorem natToBits_length (n v : Nat) : (natToBits n v).length = n := by
  induction n with
  | zero => rfl
  | succ n ih => simp [natToBits, ih]

/-- The low bit of the number is the last bit of the string. -/
theorem natToBits_succ_concat (n v : Nat) (b : Bool) :
    natToBits (n + 1) (2 * v + b.toNat) = natToBits n v ++ [b] := by
  induction n with
  | zero => cases b <;> simp [natToBits, Nat.testBit_zero]
  | succ n ih =>
    have hbit : (2 * v + b.toNat).testBit (n + 1) = v.testBit n := by
      have hb := b.toNat_lt
      rw [Nat.testBit_succ, show (2 * v + b.toNat) / 2 = v by omega]
    rw [natToBits, ih, hbit]
    rfl

@[simp] theorem bitsToNat_natToBits (n v : Nat) : bitsToNat (natToBits n v) = v % 2 ^ n := by
  induction n with
  | zero => simp [natToBits, Nat.mod_one]
  | succ n ih =>
    rw [natToBits, bitsToNat_cons, natToBits_length, ih, Nat.mod_pow_succ, Nat.toNat_testBit]
    ring

@[simp] theorem natToBits_bitsToNat (x : Bits) : natToBits x.length (bitsToNat x) = x := by
  induction x using List.reverseRecOn with
  | nil => rfl
  | append_singleton x b ih =>
    rw [bitsToNat_concat, List.length_append, List.length_singleton, natToBits_succ_concat, ih]

/-! Strings and machine words -/

@[simp] theorem bvToBits_length {n : Nat} (v : BitVec n) : (bvToBits v).length = n := natToBits_length n v.toNat

@[simp] theorem bitsToBv_bvToBits {n : Nat} (v : BitVec n) : bitsToBv n (bvToBits v) = v := by
  apply BitVec.eq_of_toNat_eq
  simp [bitsToBv, bvToBits]

theorem bvToBits_bitsToBv {n : Nat} {x : Bits} (h : x.length = n) : bvToBits (bitsToBv n x) = x := by
  subst h
  rw [bvToBits, bitsToBv, BitVec.toNat_ofNat, Nat.mod_eq_of_lt (bitsToNat_lt x), natToBits_bitsToNat]

theorem bitsToBv_injective {n : Nat} {x y : Bits} (hx : x.length = n) (hy : y.length = n)
    (h : bitsToBv n x = bitsToBv n y) : x = y := by
  rw [← bvToBits_bitsToBv hx, h, bvToBits_bitsToBv hy]

/-! Slices and padding -/

theorem slice_length (x : Bits) (s e : Nat) : (slice x s e).length = min e x.length - s := by
  simp [slice]

theorem getElem?_slice (x : Bits) (s e i : Nat) : (slice x s e)[i]? = if s + i < e then x[s + i]? else none := by
  rw [slice, List.getElem?_drop, List.getElem?_take]

theorem padr_length (x : Bits) (n : Nat) : (padr x n).length = max x.length n := by
  simp only [padr, zeros, List.length_append, List.length_replicate]
  omega

theorem padr_injective {x y : Bits} {n : Nat} (hl : x.length = y.length) (h : padr x n = padr y n) : x = y :=
  List.append_inj_left h hl

/-! Strings and their pieces -/

@[simp] theorem splitEvery_nil (n : Nat) : splitEvery n [] = [] := rfl

/-- The bound on the count of pieces does not matter once it reaches the length. -/
theorem piecesOf_bound_irrelevant {n : Nat} (hn : 0 < n) {k m : Nat} {x : Bits} (hk : x.length ≤ k)
    (hm : x.length ≤ m) : piecesOf n k x = piecesOf n m x := by
  induction k generalizing m x with
  | zero =>
    obtain rfl := List.length_eq_zero_iff.mp (Nat.le_zero.mp hk)
    cases m <;> rfl
  | succ k ih =>
    cases m with
    | zero =>
      obtain rfl := List.length_eq_zero_iff.mp (Nat.le_zero.mp hm)
      rfl
    | succ m =>
      have hrest : (x.drop n).length = x.length - n := List.length_drop
      rw [piecesOf, piecesOf, ih (m := m) (by omega) (by omega)]

theorem splitEvery_of_ne_nil {n : Nat} (hn : 0 < n) {x : Bits} (hx : x ≠ []) :
    splitEvery n x = x.take n :: splitEvery n (x.drop n) := by
  obtain ⟨b, t, rfl⟩ := List.exists_cons_of_ne_nil hx
  have hrest : ((b :: t).drop n).length ≤ t.length := by
    rw [List.length_drop, List.length_cons]
    omega
  exact congrArg ((b :: t).take n :: ·) (piecesOf_bound_irrelevant hn hrest le_rfl)

theorem splitEvery_append {n : Nat} (hn : 0 < n) {p : Bits} (hp : p.length = n) (x : Bits) :
    splitEvery n (p ++ x) = p :: splitEvery n x := by
  have hp' : p ≠ [] := List.length_pos_iff.mp (hp ▸ hn)
  have hne : p ++ x ≠ [] := List.append_ne_nil_of_left_ne_nil hp' x
  rw [splitEvery_of_ne_nil hn hne, List.take_left' hp, List.drop_left' hp]

/-- Induction that takes one piece at a time from the front. -/
theorem pieces_induction {n : Nat} (hn : 0 < n) {P : Bits → Prop} (nil : P [])
    (piece : ∀ x, x ≠ [] → P (x.drop n) → P x) (x : Bits) : P x := by
  induction hl : x.length using Nat.strong_induction_on generalizing x with
  | _ l ih =>
    by_cases hx : x = []
    · exact hx ▸ nil
    · have hpos := List.length_pos_iff.mpr hx
      exact piece x hx (ih _ (by rw [List.length_drop]; omega) (x.drop n) rfl)

theorem flatten_splitEvery {n : Nat} (hn : 0 < n) (x : Bits) : (splitEvery n x).flatten = x := by
  induction x using pieces_induction hn with
  | nil => rfl
  | piece x hx ih => rw [splitEvery_of_ne_nil hn hx, List.flatten_cons, ih, List.take_append_drop]

theorem length_of_mem_splitEvery {n : Nat} (hn : 0 < n) {x : Bits} (hx : n ∣ x.length) :
    ∀ p ∈ splitEvery n x, p.length = n := by
  induction x using pieces_induction hn with
  | nil => simp
  | piece x hne ih =>
    have hle : n ≤ x.length := Nat.le_of_dvd (List.length_pos_iff.mpr hne) hx
    have hrest : n ∣ (x.drop n).length := by simpa using Nat.dvd_sub hx (dvd_refl n)
    rw [splitEvery_of_ne_nil hn hne, List.forall_mem_cons]
    exact ⟨List.length_take_of_le hle, ih hrest⟩

/-! Byte strings (R77) -/

@[simp] theorem bytesOf_nil : bytesOf [] = [] := rfl

@[simp] theorem ofBytes_nil : ofBytes [] = [] := rfl

theorem ofBytes_cons (c : Byte) (l : List Byte) : ofBytes (c :: l) = bvToBits c ++ ofBytes l := rfl

theorem bytesOf_append {p : Bits} (hp : p.length = 8) (x : Bits) :
    bytesOf (p ++ x) = bitsToBv 8 p :: bytesOf x := by
  simp [bytesOf, splitEvery_append (by decide) hp]

theorem ofBytes_bytesOf {x : Bits} (hx : x.length % 8 = 0) : ofBytes (bytesOf x) = x := by
  have hpiece : ∀ p ∈ splitEvery 8 x, bvToBits (bitsToBv 8 p) = p := fun p hp =>
    bvToBits_bitsToBv (length_of_mem_splitEvery (by decide) (Nat.dvd_of_mod_eq_zero hx) p hp)
  calc ofBytes (bytesOf x)
      = ((splitEvery 8 x).map fun p => bvToBits (bitsToBv 8 p)).flatten := by
        simp [ofBytes, bytesOf, List.flatMap_def, Function.comp_def]
    _ = (splitEvery 8 x).flatten := by rw [List.map_congr_left hpiece, List.map_id']
    _ = x := flatten_splitEvery (by decide) x

@[simp] theorem bytesOf_ofBytes (l : List Byte) : bytesOf (ofBytes l) = l := by
  induction l with
  | nil => rfl
  | cons c l ih => rw [ofBytes_cons, bytesOf_append (bvToBits_length c), bitsToBv_bvToBits, ih]

/-! The word representation (R20) -/

theorem length_eq_of_counts {x y : Bits} (hw : wordCount x = wordCount y) (hp : partialCount x = partialCount y) :
    x.length = y.length := by
  simp only [wordCount, partialCount, ceilDiv] at hw hp
  split at hp <;> split at hp <;> omega

/-- For strings of one length, a word determines the bits it holds. -/
theorem slice_eq_of_wordAt_eq {x y : Bits} {i : Nat} (hl : x.length = y.length) (h : wordAt x i = wordAt y i) :
    slice x (32 * i) (32 * i + 32) = slice y (32 * i) (32 * i + 32) := by
  have hpad : ∀ z : Bits, (padr (slice z (32 * i) (32 * i + 32)) 32).length = 32 := by
    intro z
    rw [padr_length, slice_length]
    omega
  exact padr_injective (by rw [slice_length, slice_length, hl]) (bitsToBv_injective (hpad x) (hpad y) h)

/-- Bit `j` stands in word `j / 32`. -/
theorem getElem?_eq_slice (x : Bits) (j : Nat) :
    x[j]? = (slice x (32 * (j / 32)) (32 * (j / 32) + 32))[j % 32]? := by
  rw [getElem?_slice, if_pos (by omega), Nat.div_add_mod]

theorem eq_of_words_eq {x y : Bits} (hw : wordCount x = wordCount y) (hp : partialCount x = partialCount y)
    (h : ∀ i < wordCount x, wordAt x i = wordAt y i) : x = y := by
  have hl : x.length = y.length := length_eq_of_counts hw hp
  apply List.ext_getElem?
  intro j
  by_cases hj : j < x.length
  · have hi : j / 32 < wordCount x := by
      rw [wordCount, ceilDiv]
      omega
    rw [getElem?_eq_slice x, getElem?_eq_slice y, slice_eq_of_wordAt_eq hl (h _ hi)]
  · rw [List.getElem?_eq_none (by omega), List.getElem?_eq_none (by omega)]

/-- Settles O39, each clause by its law above: numbers by induction over the digits, bytes by induction over the
pieces, words by the length that the two counts fix and the slice that each word holds. -/
theorem bitStringLaws : Obligations.BitStringLaws :=
  ⟨fun n v => ⟨natToBits_length n v, bitsToNat_natToBits n v⟩, natToBits_bitsToNat, fun _ => ofBytes_bytesOf,
    bytesOf_ofBytes, fun _ _ => eq_of_words_eq⟩

end Sys2Proof.Machine
end

section
/-! What one step can do (30_encoding.md R100; 20_memory.md R81), and the register an address names (R70). -/

namespace Sys2Proof.Machine

/-! One step, by the kind of the next action -/

theorem takeAction_setTime {s : State} {now : BitVec 64} {rest : List HostAction}
    (h : s.hostIn = .setTime now :: rest) :
    takeAction s =
      .settled { s with hostIn := rest, timeHi := now.extractLsb' 32 32, timeLo := now.extractLsb' 0 32 } := by
  rw [takeAction, h]

theorem takeAction_setNoise {s : State} {noise : Vector Word 16} {rest : List HostAction}
    (h : s.hostIn = .setNoise noise :: rest) : takeAction s = .settled { s with hostIn := rest, noise := noise } := by
  rw [takeAction, h]

/-- A write to `CMD`, by whatever address it is reached. -/
theorem takeAction_write_cmd {s : State} {addr : BitVec 12} {size : Nat} {cw : Word} {rest : List HostAction}
    (h : s.hostIn = .write addr size cw :: rest) (hr : hostReg addr size = .cmd) :
    takeAction s = .command cw { s with hostIn := rest, cmd := cw } := by
  rw [takeAction, h]
  exact if_pos hr

theorem step_of_settled {s t : State} (h : takeAction s = .settled t) : step s = .next t := by rw [step, h]

theorem step_of_idle {s : State} (h : s.hostIn = []) : step s = .next s := by rw [step, takeAction_nil h]

theorem step_read {s : State} {addr : BitVec 12} {size : Nat} {rest : List HostAction}
    (h : s.hostIn = .read addr size :: rest) :
    step s = .next
      { regReadEffect { s with hostIn := rest } (hostReg addr size) with
        hostOut := regRead { s with hostIn := rest } (hostReg addr size) :: s.hostOut } :=
  step_of_settled (takeAction_read h)

/-- A write to a register the address is known to name. -/
theorem step_write {s : State} {addr : BitVec 12} {v : Word} {rest : List HostAction} {r : HostReg}
    (h : s.hostIn = .write addr 4 v :: rest) (hr : hostReg addr 4 = r) (hc : r ≠ .cmd) :
    step s = .next (regWrite { s with hostIn := rest } v r) := by
  subst hr
  exact step_of_settled (takeAction_write h hc)

/-- The state after one step, by the action that was next: the step relation as cases, for proofs that a property is
kept. The command cases speak of the state in which `CMD` is written (R100 step 1). -/
inductive Stepped (s : State) : State → Prop where
  | idle : s.hostIn = [] → Stepped s s
  | read {addr : BitVec 12} {size : Nat} {rest : List HostAction} : s.hostIn = .read addr size :: rest →
      Stepped s
        { regReadEffect { s with hostIn := rest } (hostReg addr size) with
          hostOut := regRead { s with hostIn := rest } (hostReg addr size) :: s.hostOut }
  | write {addr : BitVec 12} {size : Nat} {v : Word} {rest : List HostAction} :
      s.hostIn = .write addr size v :: rest → hostReg addr size ≠ .cmd →
      Stepped s (regWrite { s with hostIn := rest } v (hostReg addr size))
  | setTime {now : BitVec 64} {rest : List HostAction} : s.hostIn = .setTime now :: rest →
      Stepped s { s with hostIn := rest, timeHi := now.extractLsb' 32 32, timeLo := now.extractLsb' 0 32 }
  | setNoise {noise : Vector Word 16} {rest : List HostAction} : s.hostIn = .setNoise noise :: rest →
      Stepped s { s with hostIn := rest, noise := noise }
  | reset {rest : List HostAction} : s.hostIn = .reset :: rest → Stepped s (hardReset { s with hostIn := rest })
  | illegal {addr : BitVec 12} {size : Nat} {cw : Word} {rest : List HostAction} {e : DecodeError} :
      s.hostIn = .write addr size cw :: rest → hostReg addr size = .cmd → decode cw = .error e →
      Stepped s (illegalCommand (opByte cw) { s with hostIn := rest, cmd := cw })
  | command {addr : BitVec 12} {size : Nat} {cw : Word} {rest : List HostAction} {i : Instr} {t : State} :
      s.hostIn = .write addr size cw :: rest → hostReg addr size = .cmd → decode cw = .ok i →
      exec i { s with hostIn := rest, cmd := cw } = .next t → Stepped s t

theorem stepped_of_write_cmd {s t : State} {addr : BitVec 12} {size : Nat} {cw : Word} {rest : List HostAction}
    (hin : s.hostIn = .write addr size cw :: rest) (hr : hostReg addr size = .cmd) (h : step s = .next t) :
    Stepped s t := by
  rw [step, takeAction_write_cmd hin hr] at h
  dsimp only at h
  unfold runWord at h
  split at h
  next e hd => exact Host.Outcome.next.inj h ▸ .illegal hin hr hd
  next i hd => exact .command hin hr hd h

theorem Stepped.of_settled {s t u : State} (hu : takeAction s = .settled u) (h : step s = .next t)
    (hs : Stepped s u) : Stepped s t :=
  Host.Outcome.next.inj ((step_of_settled hu).symm.trans h) ▸ hs

theorem stepped_of_step {s t : State} (h : step s = .next t) : Stepped s t := by
  cases hin : s.hostIn with
  | nil => exact Host.Outcome.next.inj ((step_of_idle hin).symm.trans h) ▸ .idle hin
  | cons action rest =>
    cases action with
    | read addr size => exact .of_settled (takeAction_read hin) h (.read hin)
    | write addr size v =>
      by_cases hr : hostReg addr size = .cmd
      · exact stepped_of_write_cmd hin hr h
      · exact .of_settled (takeAction_write hin hr) h (.write hin hr)
    | setTime now => exact .of_settled (takeAction_setTime hin) h (.setTime hin)
    | setNoise noise => exact .of_settled (takeAction_setNoise hin) h (.setNoise hin)
    | reset => exact .of_settled (takeAction_reset hin) h (.reset hin)

/-! The register map (R70) -/

theorem hostReg_scal : ∀ i : ScalIx, hostReg (BitVec.ofNat 12 (0x020 + 4 * i.val)) 4 = .scal i := by decide

theorem hostReg_noise : ∀ i : Fin 16, hostReg (BitVec.ofNat 12 (0x0C0 + 4 * i.val)) 4 = .noise i := by decide

/-- Above the map every address is reserved (R72). -/
theorem regAtIndex_of_le {w : Nat} (h : 0x40 ≤ w) : regAtIndex w = .reserved := by
  simp (disch := omega) only [regAtIndex, if_neg, dif_neg]

theorem regAtIndex_eq_bdata_iff (w : Nat) : regAtIndex w = .bdata ↔ w = 0x13 := by
  by_cases h : w < 0x40
  · exact (by decide : ∀ w < 0x40, regAtIndex w = .bdata ↔ w = 0x13) w h
  · rw [regAtIndex_of_le (by omega)]
    simp only [reduceCtorEq, false_iff]
    omega

/-- `BDATA` has one address, and only an access of four bytes reaches it (R70, R71). -/
theorem hostReg_eq_bdata_iff (addr : BitVec 12) (size : Nat) :
    hostReg addr size = .bdata ↔ size = 4 ∧ addr = 0x04C := by
  have haddr : addr = 0x04C ↔ addr.toNat = 0x04C := BitVec.toNat_inj.symm
  rw [hostReg, haddr]
  split_ifs with h
  · rw [regAtIndex_eq_bdata_iff]
    omega
  · simp only [false_iff]
    omega

/-! What register accesses leave unchanged -/

/-- A read changes at most `BPTR` (R76, R80). -/
theorem regReadEffect_eq (s : State) (r : HostReg) :
    regReadEffect s r =
      { s with
        bptr := if r = .bdata ∧ s.bptr.toNat < wordCount (s.bufAt s.bsel) then bptrNext s.bptr else s.bptr } := by
  unfold regReadEffect
  split <;> rfl

theorem regRead_hostIn (s : State) (l : List HostAction) (r : HostReg) :
    regRead { s with hostIn := l } r = regRead s r := by
  cases r <;> rfl

/-! The three writes that depend on their value (R32, R74, R75) -/

theorem regWrite_ctrl (s : State) (v : Word) :
    regWrite s v .ctrl =
      if (v.extractLsb' 0 4).toNat ≤ 10 then { s with defParanoia := v.extractLsb' 0 4 } else s := rfl

theorem regWrite_blen (s : State) (v : Word) :
    regWrite s v .blen =
      if fitsBuf v.toNat then { s.setBuf s.bsel (zeros v.toNat) with bptr := 0 } else s := rfl

theorem regWrite_bdata (s : State) (v : Word) :
    regWrite s v .bdata =
      if s.bptr.toNat < wordCount (s.bufAt s.bsel) then
        { s.setBuf s.bsel (bufWithWord (s.bufAt s.bsel) s.bptr.toNat v) with bptr := bptrNext s.bptr }
      else s := rfl

/-- No write reaches a context slot, the engine or the generator (R85). -/
theorem regWrite_secrets (s : State) (v : Word) (r : HostReg) :
    (regWrite s v r).keys = s.keys ∧ (regWrite s v r).hashes = s.hashes ∧ (regWrite s v r).pbk = s.pbk ∧
      (regWrite s v r).rng = s.rng := by
  cases r with
  | ctrl => rw [regWrite_ctrl]; split <;> exact ⟨rfl, rfl, rfl, rfl⟩
  | blen => rw [regWrite_blen]; split <;> exact ⟨rfl, rfl, rfl, rfl⟩
  | bdata => rw [regWrite_bdata]; split <;> exact ⟨rfl, rfl, rfl, rfl⟩
  | _ => exact ⟨rfl, rfl, rfl, rfl⟩

end Sys2Proof.Machine
end

section
/-! The host's registers: what reads return, what writes do, what the host cannot see (20_memory.md R70 to R85). -/

namespace Sys2Proof.Machine

/-! Register writes and platform inputs (O9) -/

theorem regWrite_ctrl_eq (s : State) (v : Word) :
    regWrite s v .ctrl =
      { s with defParanoia := if v.toNat % 16 ≤ 10 then BitVec.ofNat 4 (v.toNat % 16) else s.defParanoia } := by
  have hlow : v.extractLsb' 0 4 = BitVec.ofNat 4 (v.toNat % 16) := by
    apply BitVec.eq_of_toNat_eq
    simp
  have hnum : (v.extractLsb' 0 4).toNat = v.toNat % 16 := by simp
  rw [regWrite_ctrl, hnum, hlow]
  split <;> rfl

/-- The two halves of `TIME` are the time the platform gave (R35, R470). -/
theorem timeHalves_append (now : BitVec 64) : now.extractLsb' 32 32 ++ now.extractLsb' 0 32 = now :=
  BitVec.extractLsb'_append_extractLsb'

/-- Settles O9: each write by the register its address names, each platform input by its action. -/
theorem registerWrites : Obligations.RegisterWrites := by
  intro s v rest
  refine ⟨fun h => step_write (r := .errFirst) h rfl (by decide),
    fun h => (step_write (r := .ctrl) h rfl (by decide)).trans (congrArg _ (regWrite_ctrl_eq _ v)),
    fun i h => step_write h (hostReg_scal i) nofun,
    fun h => step_write (r := .env .v) h rfl (by decide),
    fun h => step_write (r := .env .iter) h rfl (by decide),
    fun h => step_write (r := .env .ks) h rfl (by decide),
    fun h => step_write (r := .env .ts) h rfl (by decide),
    fun h => step_write (r := .env .mode) h rfl (by decide),
    fun h => step_write (r := .env .cipher) h rfl (by decide),
    fun h => step_write (r := .timeLo) h rfl (by decide),
    fun h => step_write (r := .timeHi) h rfl (by decide),
    fun i h => step_write h (hostReg_noise i) nofun, ?readNoise,
    fun now h => ⟨_, step_of_settled (takeAction_setTime h), timeHalves_append now, rfl⟩,
    fun noise h => step_of_settled (takeAction_setNoise h), fun h => step_of_settled (takeAction_reset h)⟩
  case readNoise =>
    intro i h
    rw [step_read h, hostReg_noise]
    rfl

/-! Register reads (O6) -/

theorem status_toWord_eq : ∀ busy done err errs : Bool,
    Status.toWord ⟨busy, done, err, errs⟩ =
      BitVec.ofNat 32 (busy.toNat + 2 * done.toNat + 4 * err.toNat + 8 * errs.toNat) := by decide

/-- The number of a word that is two words side by side. -/
theorem toNat_append_eq {m n : Nat} (x : BitVec m) (y : BitVec n) :
    (x ++ y).toNat = 2 ^ n * x.toNat + y.toNat := by
  rw [BitVec.toNat_append, Nat.shiftLeft_eq, Nat.mul_comm, Nat.two_pow_add_eq_or_of_lt y.isLt]

theorem errReg_toWord_eq (r : ErrReg) : r.toWord = BitVec.ofNat 32 (r.op.toNat * 2 ^ 8 + r.codeByte.toNat) := by
  apply BitVec.eq_of_toNat_eq
  have hcode := r.codeByte.isLt
  have hop := r.op.isLt
  rw [ErrReg.toWord, toNat_append_eq, toNat_append_eq, BitVec.toNat_ofNat, BitVec.toNat_ofNat]
  omega

theorem ctrlWord_eq (p : BitVec 4) : (0#28) ++ p = BitVec.ofNat 32 p.toNat := by
  apply BitVec.eq_of_toNat_eq
  have hp := p.isLt
  rw [toNat_append_eq, BitVec.toNat_ofNat, BitVec.toNat_ofNat]
  omega


/-- A word of the word representation, as the string with zeros behind it shows it (R20, R76). -/
theorem padr_slice_eq (x : Bits) {p : Nat} (hp : p < wordCount x) :
    padr (slice x (32 * p) (32 * p + 32)) 32 = ((x ++ zeros 32).drop (32 * p)).take 32 := by
  simp only [wordCount, ceilDiv] at hp
  have hle : 32 * p ≤ x.length := by omega
  rw [padr, slice, List.drop_append_of_le_length hle, List.take_append, List.drop_take, zeros, zeros,
    List.take_replicate]
  congr 2
  · omega
  · simp
    omega

theorem pbkStateWord_eq (e : PbkEngine) :
    pbkStateWord e = BitVec.ofNat 32 (
        (match e.state with
          | .idle => 0
          | .run => 1
          | .done => 2) +
        2 ^ 4 * (match e.alg with
          | .sha256 => 0
          | .sha512 => 1)) := by
  unfold pbkStateWord
  cases e.state <;> cases e.alg <;> rfl

/-- Settles O6: a read by what it changes and returns, each word of the map by the register its address names. -/
theorem hostReads : Obligations.HostReads := by
  refine ⟨fun s addr size rest h => ?effect, fun s => ?words, fun s => step_of_idle⟩
  case effect =>
    rw [step_read h, regReadEffect_eq, regRead_hostIn]
    simp only [hostReg_eq_bdata_iff, and_assoc]
    rfl
  case words =>
    intro errWord x p
    have herr : ∀ r : ErrReg, r.toWord = errWord r := by
      rintro ⟨op, _ | e⟩
      · exact errReg_toWord_eq _
      · cases e <;> exact errReg_toWord_eq _
    have hdata : regRead s .bdata =
        if p < (x.length + 31) / 32 then BitVec.ofNat 32 (bitsToNat (((x ++ zeros 32).drop (32 * p)).take 32))
        else 0 :=
      if_ctx_congr Iff.rfl (fun hp => congrArg (fun y => BitVec.ofNat 32 (bitsToNat y)) (padr_slice_eq x hp))
        fun _ => rfl
    refine ⟨?map, fun i => by rw [hostReg_scal]; rfl, fun i => by rw [hostReg_noise]; rfl⟩
    simp only [List.forall_mem_cons, List.not_mem_nil, false_imp_iff, implies_true, and_true]
    exact ⟨rfl, status_toWord_eq _ _ _ _, herr s.err, herr s.errFirst, rfl, ctrlWord_eq _, rfl, rfl, rfl, rfl, hdata,
      pbkStateWord_eq s.pbk, rfl, rfl, rfl, rfl, rfl, rfl, rfl, rfl, rfl, rfl⟩

/-! What the host cannot see (O11) -/

section SameToHost

variable {s t : State} (h : SameToHost s t)
include h

theorem SameToHost.bufAt (i : BufIx) : s.bufAt i = t.bufAt i := by rw [State.bufAt, h.buf, State.bufAt]

theorem SameToHost.regRead (r : HostReg) : regRead s r = regRead t r := by
  obtain ⟨herr, hfirst, hcnt⟩ := h.errors
  obtain ⟨hsel, hptr⟩ := h.port
  obtain ⟨hlo, hhi⟩ := h.time
  obtain ⟨hstate, halg, hblk, hiter⟩ := h.engine
  cases r <;>
    simp only [Machine.regRead, State.scalAt, pbkStateWord, h.bufAt, h.scal, h.cmd, h.status, h.ctrl, h.env, herr,
      hfirst, hcnt, hsel, hptr, hlo, hhi, hstate, halg, hblk, hiter]

theorem SameToHost.withHostIn (l : List HostAction) : SameToHost { s with hostIn := l } { t with hostIn := l } :=
  { h with host := ⟨rfl, h.host.2⟩ }

theorem SameToHost.withHostOut {l l' : List Word} (hl : l = l') :
    SameToHost { s with hostOut := l } { t with hostOut := l' } :=
  { h with host := ⟨h.host.1, hl⟩ }

theorem SameToHost.regReadEffect (r : HostReg) : SameToHost (regReadEffect s r) (regReadEffect t r) := by
  obtain ⟨hsel, hptr⟩ := h.port
  rw [regReadEffect_eq, regReadEffect_eq, h.bufAt, hsel, hptr]
  exact { h with port := ⟨rfl, rfl⟩ }

theorem SameToHost.setBuf (i : BufIx) (x : Bits) : SameToHost (s.setBuf i x) (t.setBuf i x) :=
  { h with buf := congrArg (fun b => b.set i.val x i.isLt) h.buf }

theorem SameToHost.regWrite (v : Word) (r : HostReg) : SameToHost (regWrite s v r) (regWrite t v r) := by
  obtain ⟨herr, hfirst, hcnt⟩ := h.errors
  obtain ⟨hsel, hptr⟩ := h.port
  obtain ⟨hlo, hhi⟩ := h.time
  cases r with
  | errFirst => exact { h with status := congrArg (fun u => { u with errs := false }) h.status, errors := ⟨herr, rfl, hcnt⟩ }
  | ctrl =>
    rw [regWrite_ctrl, regWrite_ctrl]
    split
    · exact { h with ctrl := rfl }
    · exact h
  | scal i => exact { h with scal := congrArg (fun b => b.set i.val v i.isLt) h.scal }
  | bsel => exact { h with port := ⟨rfl, rfl⟩ }
  | blen =>
    rw [regWrite_blen, regWrite_blen, hsel]
    split
    · exact { h.setBuf _ _ with port := ⟨hsel, rfl⟩ }
    · exact h
  | bptr => exact { h with port := ⟨hsel, rfl⟩ }
  | bdata =>
    rw [regWrite_bdata, regWrite_bdata, hsel, hptr, h.bufAt]
    split
    · exact { h.setBuf _ _ with port := ⟨hsel, rfl⟩ }
    · exact h
  | env f => exact { h with env := congrArg (fun r => r.put v f) h.env }
  | timeLo => exact { h with time := ⟨rfl, hhi⟩ }
  | timeHi => exact { h with time := ⟨hlo, rfl⟩ }
  | noise i => exact { h with }
  | _ => exact h

end SameToHost

/-- Settles O11, by the kind of the next action: both states have the same one to come. -/
theorem secretsHidden : Obligations.SecretsHidden := by
  intro s t h
  obtain ⟨hin, hout⟩ := h.host
  have hrest := h.withHostIn
  cases hs : s.hostIn with
  | nil =>
    rw [takeAction_nil hs, takeAction_nil (hin ▸ hs)]
    trivial
  | cons action rest =>
    have ht : t.hostIn = action :: rest := hin ▸ hs
    cases action with
    | read addr size =>
      rw [takeAction_read hs, takeAction_read ht]
      exact ((hrest rest).regReadEffect _).withHostOut (congrArg₂ List.cons ((hrest rest).regRead _) hout)
    | write addr size v =>
      by_cases hr : hostReg addr size = .cmd
      · rw [takeAction_write_cmd hs hr, takeAction_write_cmd ht hr]
        exact ⟨rfl, { hrest rest with cmd := rfl }⟩
      · rw [takeAction_write hs hr, takeAction_write ht hr]
        exact (hrest rest).regWrite v _
    | setTime now =>
      rw [takeAction_setTime hs, takeAction_setTime ht]
      exact { hrest rest with time := ⟨rfl, rfl⟩ }
    | setNoise noise =>
      rw [takeAction_setNoise hs, takeAction_setNoise ht]
      exact { hrest rest with }
    | reset =>
      rw [takeAction_reset hs, takeAction_reset ht]
      exact ⟨rfl, rfl, rfl, rfl, ⟨rfl, rfl, rfl⟩, rfl, ⟨rfl, rfl⟩, rfl, ⟨rfl, rfl⟩, ⟨rfl, rfl, rfl, rfl⟩,
        ⟨rfl, hout⟩⟩

end Sys2Proof.Machine
end

section
/-! The buffer port at work (20_memory.md R73 to R76): what LOADB writes and READB reads back (30_encoding.md R115). -/

namespace Sys2Proof.Machine

/-! Runs -/

theorem runSteps_of_step {s t : State} (h : step s = .next t) (k : Nat) : runSteps (k + 1) s = runSteps k t := by
  rw [runSteps, h]

theorem runSteps_add {m : Nat} {s t : State} (h : runSteps m s = .next t) (k : Nat) :
    runSteps (m + k) s = runSteps k t := by
  induction m generalizing s with
  | zero => rw [Nat.zero_add, Host.Outcome.next.inj h]
  | succ m ih =>
    rw [Nat.succ_add, runSteps]
    rw [runSteps] at h
    cases hs : step s with
    | next u => exact ih (by simpa only [hs] using h)
    | fault f => simp only [hs, reduceCtorEq] at h
    | refused r => simp only [hs, reduceCtorEq] at h

/-! The port's registers, by a read or a write at their address -/

theorem step_write_bsel {s : State} {n : BufIx} {rest : List HostAction}
    (h : s.hostIn = .write 0x040 4 (BitVec.ofNat 32 n.val) :: rest) :
    step s = .next { s with hostIn := rest, bsel := n, bptr := 0 } := by
  have hn : (⟨(BitVec.ofNat 32 n.val).toNat % 16, Nat.mod_lt _ (by decide)⟩ : BufIx) = n := by
    apply Fin.ext
    have := n.isLt
    simp only [BitVec.toNat_ofNat]
    omega
  rw [step_write (r := .bsel) h rfl (by decide), regWrite, hn]

theorem step_write_blen {s : State} {len : Nat} {rest : List HostAction} (hfits : fitsBuf len = true)
    (hlen : len < 2 ^ 32) (h : s.hostIn = .write 0x044 4 (BitVec.ofNat 32 len) :: rest) :
    step s = .next { s.setBuf s.bsel (zeros len) with hostIn := rest, bptr := 0 } := by
  have hnat : (BitVec.ofNat 32 len).toNat = len := by rw [BitVec.toNat_ofNat, Nat.mod_eq_of_lt hlen]
  rw [step_write (r := .blen) h rfl (by decide), regWrite_blen, hnat, if_pos hfits]
  rfl

/-- A write to `BDATA`, for the buffer, the word number and the content at hand (R75). -/
theorem step_write_bdata {s : State} {v : Word} {rest : List HostAction} {n : BufIx} {x : Bits} {k : Nat}
    (h : s.hostIn = .write 0x04C 4 v :: rest) (hsel : s.bsel = n) (hbuf : s.bufAt n = x) (hptr : s.bptr.toNat = k)
    (hk : k < wordCount x) :
    step s = .next { s.setBuf n (bufWithWord x k v) with hostIn := rest, bptr := bptrNext s.bptr } := by
  subst hsel hbuf hptr
  exact (step_write (r := .bdata) h rfl (by decide)).trans (congrArg Host.Outcome.next (if_pos hk))

theorem step_read_blen {s : State} {rest : List HostAction} {n : BufIx} {x : Bits}
    (h : s.hostIn = .read 0x044 4 :: rest) (hsel : s.bsel = n) (hbuf : s.bufAt n = x) (hlen : x.length < 2 ^ 32) :
    step s = .next { s with hostIn := rest, hostOut := BitVec.ofNat 32 x.length :: s.hostOut } := by
  subst hsel hbuf
  have hword : regRead s .blen = BitVec.ofNat 32 (s.bufAt s.bsel).length := if_pos hlen
  rw [step_read h, regRead_hostIn, show hostReg 0x044 4 = .blen from rfl, hword]
  rfl

/-- A read of `BDATA`, for the buffer, the word number and the content at hand (R76). -/
theorem step_read_bdata {s : State} {rest : List HostAction} {n : BufIx} {x : Bits} {k : Nat}
    (h : s.hostIn = .read 0x04C 4 :: rest) (hsel : s.bsel = n) (hbuf : s.bufAt n = x) (hptr : s.bptr.toNat = k)
    (hk : k < wordCount x) :
    step s = .next { s with hostIn := rest, bptr := bptrNext s.bptr, hostOut := wordAt x k :: s.hostOut } := by
  subst hsel hbuf hptr
  have hword : regRead s .bdata = wordAt (s.bufAt s.bsel) s.bptr.toNat := if_pos hk
  have heffect : regReadEffect { s with hostIn := rest } .bdata =
      { s with hostIn := rest, bptr := bptrNext s.bptr } := if_pos ⟨rfl, hk⟩
  rw [step_read h, regRead_hostIn, show hostReg 0x04C 4 = .bdata from rfl, hword, heffect]

theorem bptrNext_ofNat {k : Nat} (hk : k + 1 < 2 ^ 32) :
    bptrNext (BitVec.ofNat 32 k) = BitVec.ofNat 32 (k + 1) := by
  rw [bptrNext, BitVec.toNat_ofNat, Nat.mod_eq_of_lt (by omega), if_pos hk, BitVec.ofNat_add]
  rfl

theorem toNat_ofNat_of_lt_wordCount {x : Bits} {k : Nat} (hlen : x.length < 2 ^ 32) (hk : k < wordCount x) :
    k + 1 < 2 ^ 32 ∧ (BitVec.ofNat 32 k).toNat = k := by
  simp only [wordCount, ceilDiv] at hk
  exact ⟨by omega, by rw [BitVec.toNat_ofNat, Nat.mod_eq_of_lt (by omega)]⟩

/-! Loading a buffer -/

/-- A buffer of the length of `x` after the first `k` words of `x` are written to it. -/
def loadedBits (x : Bits) (k : Nat) : Bits := x.take (32 * k) ++ zeros (x.length - 32 * k)

theorem loadedBits_zero (x : Bits) : loadedBits x 0 = zeros x.length := by simp [loadedBits]

theorem loadedBits_wordCount (x : Bits) : loadedBits x (wordCount x) = x := by
  have hle : x.length ≤ 32 * wordCount x := by
    simp only [wordCount, ceilDiv]
    omega
  rw [loadedBits, List.take_of_length_le hle, Nat.sub_eq_zero_of_le hle]
  exact List.append_nil x

theorem loadedBits_length {x : Bits} {k : Nat} (hk : 32 * k ≤ x.length) : (loadedBits x k).length = x.length := by
  simp only [loadedBits, zeros, List.length_append, List.length_take, List.length_replicate]
  omega

/-- The word written to `BDATA` puts back the bits it was made of (R75). -/
theorem slice_bvToBits_wordAt (x : Bits) (k : Nat) :
    slice (bvToBits (wordAt x k)) 0 (min 32 (x.length - 32 * k)) = slice x (32 * k) (32 * k + 32) := by
  have hlen : (slice x (32 * k) (32 * k + 32)).length = min 32 (x.length - 32 * k) := by
    rw [slice_length]
    omega
  have hpad : (padr (slice x (32 * k) (32 * k + 32)) 32).length = 32 := by
    rw [padr_length]
    omega
  rw [wordAt, bvToBits_bitsToBv hpad, ← hlen, slice, List.drop_zero, padr, List.take_left]

theorem bufWithWord_loadedBits {x : Bits} {k : Nat} (hk : k < wordCount x) :
    bufWithWord (loadedBits x k) k (wordAt x k) = loadedBits x (k + 1) := by
  have hle : 32 * k ≤ x.length := by
    simp only [wordCount, ceilDiv] at hk
    omega
  have htake : (x.take (32 * k)).length = 32 * k := List.length_take_of_le hle
  have hfirst : slice (loadedBits x k) 0 (32 * k) = x.take (32 * k) := by
    rw [slice, List.drop_zero, loadedBits, List.take_left' htake]
  have hlast : slice (loadedBits x k) (32 * k + min 32 (x.length - 32 * k)) x.length =
      zeros (x.length - 32 * (k + 1)) := by
    rw [slice, ← loadedBits_length hle, List.take_length, loadedBits_length hle, loadedBits, ← List.drop_drop,
      List.drop_left' htake, zeros, List.drop_replicate, zeros]
    congr 1
    omega
  have hjoin : x.take (32 * k) ++ slice x (32 * k) (32 * k + 32) = x.take (32 * (k + 1)) := by
    rw [slice, List.drop_take, ← List.take_add]
    congr 1
    omega
  simp only [bufWithWord, loadedBits_length hle, hfirst, slice_bvToBits_wordAt, hlast, hjoin]
  rfl

/-- The state in which the host is about to write word `k` of `x` to buffer `n`. -/
def loadingState (s : State) (n : BufIx) (x : Bits) (k : Nat) (rest : List HostAction) : State :=
  { s.setBuf n (loadedBits x k) with hostIn := rest, bsel := n, bptr := BitVec.ofNat 32 k }

theorem step_loadingState (s : State) (n : BufIx) {x : Bits} {k : Nat} (rest : List HostAction)
    (hlen : x.length < 2 ^ 32) (hk : k < wordCount x) :
    step (loadingState s n x k (.write 0x04C 4 (wordAt x k) :: rest)) = .next (loadingState s n x (k + 1) rest) := by
  obtain ⟨hnext, hnat⟩ := toNat_ofNat_of_lt_wordCount hlen hk
  have hbuf : (loadingState s n x k (.write 0x04C 4 (wordAt x k) :: rest)).bufAt n = loadedBits x k :=
    (bufAt_setBuf s n n _).trans (if_pos rfl)
  have hcount : k < wordCount (loadedBits x k) := by
    simp only [wordCount, ceilDiv] at hk ⊢
    rwa [loadedBits_length (by omega)]
  rw [step_write_bdata rfl rfl hbuf hnat hcount, bufWithWord_loadedBits hk]
  simp only [loadingState, State.setBuf, Vector.set_set, bptrNext_ofNat hnext]

/-- The writes of the words from word `k` on, by induction over their number. -/
theorem runSteps_loadingState (s : State) (n : BufIx) {x : Bits} (rest : List HostAction)
    (hlen : x.length < 2 ^ 32) (m : Nat) : ∀ k, k + m = wordCount x →
      runSteps m (loadingState s n x k
        ((List.range' k m).map (fun i => .write 0x04C 4 (wordAt x i)) ++ rest)) =
      .next (loadingState s n x (wordCount x) rest) := by
  induction m with
  | zero =>
    intro k hk
    rw [← hk]
    rfl
  | succ m ih =>
    intro k hk
    rw [List.range'_succ, List.map_cons, List.cons_append,
      runSteps_of_step (step_loadingState s n _ hlen (by omega))]
    exact ih (k + 1) (by omega)

/-- LOADB (R115): the buffer holds the string, and `BPTR` stands behind its last word. -/
theorem runSteps_loadB {s : State} {n : BufIx} {x : Bits} {rest : List HostAction} (hfits : fitsBuf x.length = true)
    (hlen : x.length < 2 ^ 32) (h : s.hostIn = macroLoadB n x ++ rest) :
    runSteps (macroLoadB n x).length s = .next
      { s.setBuf n x with hostIn := rest, bsel := n, bptr := BitVec.ofNat 32 (wordCount x) } := by
  have hcount : (macroLoadB n x).length = wordCount x + 1 + 1 := by simp [macroLoadB]
  rw [hcount, runSteps_of_step (step_write_bsel h), runSteps_of_step (step_write_blen hfits hlen rfl)]
  have hloop := runSteps_loadingState s n rest hlen (wordCount x) 0 (Nat.zero_add _)
  rw [← List.range_eq_range', loadingState, loadingState, loadedBits_zero, loadedBits_wordCount] at hloop
  exact hloop

/-! Reading a buffer -/

/-- The state in which the host has read the length of buffer `n` and its first `k` words. -/
def readingState (s : State) (n : BufIx) (k : Nat) (rest : List HostAction) : State :=
  { s with
    hostIn := rest, bsel := n, bptr := BitVec.ofNat 32 k
    hostOut := ((List.range k).map (wordAt (s.bufAt n))).reverse ++
      BitVec.ofNat 32 (s.bufAt n).length :: s.hostOut }

theorem step_readingState (s : State) (n : BufIx) {k : Nat} (rest : List HostAction)
    (hlen : (s.bufAt n).length < 2 ^ 32) (hk : k < wordCount (s.bufAt n)) :
    step (readingState s n k (.read 0x04C 4 :: rest)) = .next (readingState s n (k + 1) rest) := by
  obtain ⟨hnext, hnat⟩ := toNat_ofNat_of_lt_wordCount hlen hk
  rw [step_read_bdata rfl rfl rfl hnat hk]
  simp only [readingState, bptrNext_ofNat hnext, List.range_succ, List.map_append, List.map_cons, List.map_nil,
    List.reverse_append, List.reverse_singleton, List.cons_append]
  rfl

/-- The reads of the words from word `k` on, by induction over their number. -/
theorem runSteps_readingState (s : State) (n : BufIx) (rest : List HostAction)
    (hlen : (s.bufAt n).length < 2 ^ 32) (m : Nat) : ∀ k, k + m = wordCount (s.bufAt n) →
      runSteps m (readingState s n k (List.replicate m (.read 0x04C 4) ++ rest)) =
      .next (readingState s n (wordCount (s.bufAt n)) rest) := by
  induction m with
  | zero =>
    intro k hk
    rw [← hk]
    rfl
  | succ m ih =>
    intro k hk
    rw [List.replicate_succ, List.cons_append, runSteps_of_step (step_readingState s n _ hlen (by omega))]
    exact ih (k + 1) (by omega)

/-- READB (R115) returns the length and then the words, and changes `BSEL` and `BPTR` only. -/
theorem runSteps_readB {s : State} {n : BufIx} {x : Bits} {rest : List HostAction} (hbuf : s.bufAt n = x)
    (hlen : x.length < 2 ^ 32) (h : s.hostIn = macroReadB n x.length ++ rest) :
    runSteps (macroReadB n x.length).length s = .next
      { s with
        hostIn := rest, bsel := n, bptr := BitVec.ofNat 32 (wordCount x)
        hostOut := ((List.range (wordCount x)).map (wordAt x)).reverse ++ BitVec.ofNat 32 x.length :: s.hostOut } := by
  subst hbuf
  have hcount : (macroReadB n (s.bufAt n).length).length = wordCount (s.bufAt n) + 1 + 1 := by
    simp [macroReadB, wordCount]
  rw [hcount, runSteps_of_step (step_write_bsel h), runSteps_of_step (step_read_blen rfl rfl rfl hlen)]
  exact runSteps_readingState s n rest hlen (wordCount (s.bufAt n)) 0 (Nat.zero_add _)

/-- Settles O10: the run of LOADB, then the run of READB from the state it leaves. -/
theorem loadThenRead : Obligations.LoadThenRead := by
  intro s n x rest hfits hlen h
  have hload := runSteps_loadB hfits hlen (h.trans (List.append_assoc _ _ _))
  have hbuf : (s.setBuf n x).bufAt n = x := (bufAt_setBuf s n n x).trans (if_pos rfl)
  rw [List.length_append, runSteps_add hload]
  exact runSteps_readB hbuf hlen rfl

end Sys2Proof.Machine
end

section
/-! How long results are (10_state.md R22; 40_bitarray_codecs.md R132): the length of what each function makes, and that
the result of every command fits a buffer when its operands do. -/

namespace Sys2Proof.Machine

/-! Pieces and joined words -/

theorem ceilDiv_add_self {n : Nat} (hn : 0 < n) (m : Nat) : ceilDiv (n + m) n = ceilDiv m n + 1 := by
  rw [ceilDiv, ceilDiv, show n + m + n - 1 = m + n - 1 + n by omega, Nat.add_div_right _ hn]

theorem ceilDiv_of_pos_of_le {n m : Nat} (hm : 0 < m) (h : m ≤ n) : ceilDiv m n = 1 := by
  rw [ceilDiv, show m + n - 1 = m - 1 + n by omega, Nat.add_div_right _ (by omega), Nat.div_eq_of_lt (by omega)]

theorem splitEvery_length {n : Nat} (hn : 0 < n) (x : Bits) : (splitEvery n x).length = ceilDiv x.length n := by
  induction x using pieces_induction hn with
  | nil => simp [ceilDiv, Nat.div_eq_of_lt (show n - 1 < n by omega)]
  | piece x hx ih =>
    have hpos := List.length_pos_iff.mpr hx
    rw [splitEvery_of_ne_nil hn hx, List.length_cons, ih, List.length_drop]
    by_cases hle : n ≤ x.length
    · conv_rhs => rw [show x.length = n + (x.length - n) by omega, ceilDiv_add_self hn]
    · rw [ceilDiv_of_pos_of_le hpos (by omega), show x.length - n = 0 by omega, ceilDiv,
        Nat.div_eq_of_lt (by omega)]

theorem flatMap_length_const {α β : Type} {f : α → List β} {n : Nat} (l : List α) (h : ∀ a ∈ l, (f a).length = n) :
    (l.flatMap f).length = n * l.length := by
  rw [List.length_flatMap, List.map_congr_left h, List.map_const', List.sum_replicate, smul_eq_mul, Nat.mul_comm]

@[simp] theorem flatMap_bvToBits_length {n : Nat} (l : List (BitVec n)) :
    (l.flatMap bvToBits).length = n * l.length :=
  flatMap_length_const l fun v _ => bvToBits_length v

@[simp] theorem flatMap_natToBits_length (n : Nat) (l : List Nat) : (l.flatMap (natToBits n)).length = n * l.length :=
  flatMap_length_const l fun v _ => natToBits_length n v

@[simp] theorem ofBytes_length (l : List Byte) : (ofBytes l).length = 8 * l.length := flatMap_bvToBits_length l

@[simp] theorem bytesOf_length (x : Bits) : (bytesOf x).length = ceilDiv x.length 8 := by
  rw [bytesOf, List.length_map, splitEvery_length (by decide)]

theorem blocks_length (x : Bits) : (blocks x).length = ceilDiv x.length 128 := splitEvery_length (by decide) x

theorem flatten_blocks (x : Bits) : (blocks x).flatten = x := flatten_splitEvery (by decide) x

@[simp] theorem xorBits_length (x y : Bits) : (xorBits x y).length = min x.length y.length := List.length_zipWith

theorem decodeAll_length {α β : Type} {f : α → Option β} {l : List α} {ys : List β}
    (h : decodeAll f l = some ys) : ys.length = l.length := by
  induction l generalizing ys with
  | nil =>
    cases h
    rfl
  | cons x xs ih =>
    unfold decodeAll at h
    split at h
    next y ys' _ hys =>
      cases h
      rw [List.length_cons, List.length_cons, ih hys]
    next => cases h

/-! Digests (R200, R230, R235) -/

theorem hash8_toBits_length {w : Nat} (h : Hash8 w) : h.toBits.length = 8 * w := by
  simp only [Hash8.toBits, List.length_append, bvToBits_length]
  omega

theorem shaFinish_length {w : Nat} (p : ShaParams w) (c : ShaState w) : (shaFinish p c).length = 8 * w :=
  hash8_toBits_length _

@[simp] theorem hashOf_length (alg : HashAlg) (m : Bits) : (hashOf alg m).length = hashDigestBits alg := by
  cases alg <;> exact shaFinish_length _ _

theorem hashFinish_length (c : HashCtx) : (hashFinish c).length = hashDigestBits c.alg := by
  cases c <;> exact shaFinish_length _ _

@[simp] theorem hmacOf_length (alg : HashAlg) (key data : Bits) :
    (hmacOf alg key data).length = hashDigestBits alg := hashOf_length _ _

theorem pbkdf2Of_length_le (alg : HashAlg) (pw salt : Bits) (count length : Nat) :
    (pbkdf2Of alg pw salt count length).length ≤ length := List.length_take_le _ _

theorem hashDigestBits_le (alg : HashAlg) : hashDigestBits alg ≤ 512 := by cases alg <;> decide

@[simp] theorem md5_length (m : List Byte) : (md5 m).length = 16 := rfl

@[simp] theorem rc2Store_length (r : Rc2Block) : (rc2Store r).length = 64 := by
  rw [rc2Store, flatMap_length_const (n := 16) _ fun w _ => by simp]
  simp

theorem rc2E_length (k : Rc2Table) (x : Bits) : (rc2E k x).length = 64 := rc2Store_length _

theorem rc2D_length (k : Rc2Table) (x : Bits) : (rc2D k x).length = 64 := rc2Store_length _

/-! Results that fit -/

/-- The result, if there is one, fits a buffer (R132). -/
def ResultFits (r : Except Err Bits) : Prop := ∀ x, r = .ok x → fitsBuf x.length = true

theorem resultFits_error (e : Err) : ResultFits (.error e) := nofun

theorem resultFits_ok {x : Bits} (h : fitsBuf x.length = true) : ResultFits (.ok x) := by
  rintro _ ⟨⟩
  exact h

theorem resultFits_ite {c : Prop} [Decidable c] {r r' : Except Err Bits} (h : c → ResultFits r)
    (h' : ¬ c → ResultFits r') : ResultFits (if c then r else r') := by
  split
  next hc => exact h hc
  next hc => exact h' hc

theorem resultFits_capacity {n : Nat} {x : Bits} (h : x.length ≤ n) : ResultFits (capacity n (.ok x)) := by
  obtain ⟨hfits, hcap⟩ | ⟨_, hcap⟩ := capacity_cases (n := n) (r := .ok x)
  · rw [hcap]
    exact resultFits_ok (fitsBuf_mono h hfits)
  · rw [hcap]
    exact resultFits_error _

theorem resultFits_withKey {k : Option AesCtx} {f : AesCtx → Except Err Bits} (h : ∀ c, ResultFits (f c)) :
    ResultFits (withKey k f) := by
  cases k with
  | none => exact resultFits_error _
  | some c => exact h c

theorem resultFits_oneBlock (f : Block → Block) (x : Bits) : ResultFits (oneBlock f x) :=
  resultFits_ite (fun _ => resultFits_error _) fun _ => resultFits_ok (fitsBuf_of_le (by simp))

theorem resultFits_bytesOperands {pw x : Bits} {r : Except Err Bits} (h : x.length % 8 = 0 → ResultFits r) :
    ResultFits (bytesOperands pw x r) :=
  resultFits_ite (fun _ => resultFits_error _) fun hbytes => h (by omega)

/-! Bit strings and codecs (R134 to R147) -/

theorem resultFits_baSlice {x : Bits} (start stop : Nat) (h : fitsBuf x.length = true) :
    ResultFits (baSlice x start stop) :=
  resultFits_ite (fun _ => resultFits_ok (fitsBuf_mono (by rw [slice_length]; omega) h)) fun _ => resultFits_error _

theorem resultFits_baConcat (x y : Bits) : ResultFits (baConcat x y) := resultFits_capacity (List.length_append).le

theorem baClamp_length_le (x : Bits) (len : Nat) : (baClamp x len).length ≤ x.length := by
  unfold baClamp
  split
  · rw [slice_length]
    omega
  · exact le_rfl

theorem resultFits_baPartial (v : Word) (len : Nat) (high : Bool) : ResultFits (baPartial v len high) := by
  refine resultFits_ite (fun hlen => resultFits_ok (fitsBuf_of_le ?_)) fun _ => resultFits_error _
  cases high with
  | false => exact (natToBits_length len v.toNat).trans_le (by omega)
  | true => exact (slice_length (bvToBits v) 0 len).trans_le (by omega)

theorem resultFits_hexDecode {t : Bits} (h : fitsBuf t.length = true) : ResultFits (hexDecode t) := by
  refine resultFits_ite (fun _ => resultFits_error _) fun hbytes => ?_
  split
  next => exact resultFits_error _
  next ds hds =>
    refine resultFits_ok (fitsBuf_mono ?_ h)
    rw [flatMap_natToBits_length, decodeAll_length hds, bytesOf_length, ceilDiv]
    omega

theorem resultFits_hexEncode (x : Bits) : ResultFits (hexEncode x) := by
  refine resultFits_ite (fun _ => resultFits_error _) fun hdigits => resultFits_capacity ?_
  rw [ofBytes_length, List.length_map, splitEvery_length (by decide), ceilDiv]
  omega

theorem b64DecodeBytes_length {url : Bool} {t : List Byte} {x : Bits} (h : b64DecodeBytes url t = some x) :
    x.length ≤ 6 * t.length ∧ x.length % 8 = 0 := by
  unfold b64DecodeBytes at h
  split at h
  next => cases h
  next vs hvs =>
    cases h
    have hchars : vs.length ≤ t.length := decodeAll_length hvs ▸ List.length_filter_le _ _
    rw [List.length_take, flatMap_natToBits_length]
    omega

/-- Base64 text of a string of bytes decodes to fewer bits. -/
theorem b64DecodeBytes_bytesOf_length {url : Bool} {t x : Bits} (h : b64DecodeBytes url (bytesOf t) = some x) :
    x.length ≤ 6 * ceilDiv t.length 8 ∧ x.length % 8 = 0 := by
  simpa only [bytesOf_length] using b64DecodeBytes_length h

theorem resultFits_b64Decode {url : Bool} {t : Bits} (h : fitsBuf t.length = true) : ResultFits (b64Decode url t) := by
  refine resultFits_ite (fun _ => resultFits_error _) fun hbytes => ?_
  split
  next => exact resultFits_error _
  next x hx =>
    obtain ⟨hlen, -⟩ := b64DecodeBytes_bytesOf_length hx
    refine resultFits_ok (fitsBuf_mono ?_ h)
    rw [ceilDiv] at hlen
    omega

theorem b64EncodeBytes_length (url nopad : Bool) (x : Bits) :
    8 * (b64EncodeBytes url nopad x).length = b64TextBits nopad x.length := by
  have hpadded : (padr x (6 * b64Chars x.length)).length = 6 * b64Chars x.length := by
    rw [padr_length, b64Chars, ceilDiv]
    omega
  have hpieces : (splitEvery 6 (padr x (6 * b64Chars x.length))).length = b64Chars x.length := by
    rw [splitEvery_length (by decide), hpadded, ceilDiv]
    omega
  simp only [b64EncodeBytes, b64TextBits, List.length_append, List.length_map, List.length_replicate, hpieces]

theorem resultFits_b64Encode (url nopad : Bool) (x : Bits) : ResultFits (b64Encode url nopad x) :=
  resultFits_ite (fun _ => resultFits_error _) fun _ =>
    resultFits_capacity (by rw [ofBytes_length, b64EncodeBytes_length])

/-! CBC and CCM (R262 to R277) -/

theorem cbcChainEnc_length (f : Block → Block) (prev : Block) (l : List Block) :
    (cbcChainEnc f prev l).length = l.length := by
  induction l generalizing prev with
  | nil => rfl
  | cons m ms ih => exact congrArg (· + 1) (ih _)

theorem cbcChainDec_length (g : Block → Block) (prev : Block) (l : List Block) :
    (cbcChainDec g prev l).length = l.length := by
  induction l generalizing prev with
  | nil => rfl
  | cons m ms ih => exact congrArg (· + 1) (ih _)

theorem cbcPadded_length (pt : Bits) : (cbcPadded pt).length = pt.length + 8 * (16 - pt.length / 8 % 16) := by
  simp [cbcPadded, cbcPad]

theorem resultFits_cbcEncrypt (k : AesCtx) (pt iv adata : Bits) : ResultFits (cbcEncrypt k pt iv adata) := by
  unfold cbcEncrypt
  split
  next => exact resultFits_error _
  next =>
    refine resultFits_ite (fun _ => resultFits_error _) fun hbytes => resultFits_capacity ?_
    have hwhole : pt.length % 8 = 0 := by simpa [wholeBytes] using hbytes
    rw [flatMap_bvToBits_length, cbcChainEnc_length, List.length_map, blocks_length, cbcPadded_length, ceilDiv]
    omega

theorem resultFits_cbcDecrypt (k : AesCtx) {ct : Bits} (iv adata : Bits) (h : fitsBuf ct.length = true) :
    ResultFits (cbcDecrypt k ct iv adata) := by
  unfold cbcDecrypt
  split
  next => exact resultFits_error _
  next =>
    refine resultFits_ite (fun _ => resultFits_error _) fun hblocks => ?_
    dsimp only
    split
    next => exact resultFits_error _
    next =>
      refine resultFits_ok (fitsBuf_mono ?_ h)
      rw [slice_length, flatMap_bvToBits_length, cbcChainDec_length, List.length_map, blocks_length, ceilDiv]
      omega

theorem ccmCtrFrom_length_le (f : Block → Block) (nonce : Bits) (L i : Nat) (l : List Bits) :
    (ccmCtrFrom f nonce L i l).length ≤ l.flatten.length := by
  induction l generalizing i with
  | nil => exact le_rfl
  | cons b bs ih =>
    have := ih (i + 1)
    rw [ccmCtrFrom, List.flatten_cons, List.length_append, List.length_append, xorBits_length]
    omega

theorem ccmCtr_length_le (f : Block → Block) (nonce : Bits) (L : Nat) (data : Bits) :
    (ccmCtr f nonce L data).length ≤ data.length :=
  (ccmCtrFrom_length_le f nonce L 1 (blocks data)).trans (congrArg List.length (flatten_blocks data)).le

theorem ccmMask_ccmTag_length_le (f : Block → Block) (nonce : Bits) (L : Nat) (pt n adata : Bits) (tlen : Nat) :
    (ccmMask f nonce L (ccmTag f pt n adata L tlen)).length ≤ tlen := by
  rw [ccmMask, xorBits_length, ccmTag, List.length_take]
  omega

theorem resultFits_ccmEncrypt (k : AesCtx) (pt iv adata : Bits) (tlen : Nat) :
    ResultFits (ccmEncrypt k pt iv adata tlen) := by
  unfold ccmEncrypt
  split
  next => exact resultFits_error _
  next =>
    refine resultFits_ite (fun _ => resultFits_error _) fun _ => resultFits_capacity ?_
    rw [List.length_append]
    exact Nat.add_le_add (ccmCtr_length_le _ _ _ _) (ccmMask_ccmTag_length_le _ _ _ _ _ _ _)

theorem resultFits_ccmDecrypt (k : AesCtx) {ct : Bits} (iv adata : Bits) (tlen : Nat) (h : fitsBuf ct.length = true) :
    ResultFits (ccmDecrypt k ct iv adata tlen) := by
  unfold ccmDecrypt
  split
  next => exact resultFits_error _
  next =>
    refine resultFits_ite (fun _ => resultFits_error _) fun _ => ?_
    refine resultFits_ite (fun _ => resultFits_error _) fun _ => ?_
    refine resultFits_ite (fun _ => ?_) fun _ => resultFits_error _
    exact resultFits_ok (fitsBuf_mono ((ccmCtr_length_le _ _ _ _).trans (List.length_take_le' _ _)) h)

/-! OCB2 and GCM (R296 to R310) -/

theorem ocbBulkEnc_out_length (f : Block → Block) (delta sum : Block) (l : List Block) :
    (ocbBulkEnc f delta sum l).out.length = l.length := by
  induction l generalizing delta sum with
  | nil => rfl
  | cons m ms ih => exact congrArg (· + 1) (ih _ _)

theorem ocbBulkDec_out_length (g : Block → Block) (delta sum : Block) (l : List Block) :
    (ocbBulkDec g delta sum l).out.length = l.length := by
  induction l generalizing delta sum with
  | nil => rfl
  | cons c cs ih => exact congrArg (· + 1) (ih _ _)

/-- The blocks of the bulk and the final block make up the message (R294). -/
theorem bulkOf_finalOf_length (x : Bits) : 128 * (bulkOf x).length + (finalOf x).length = x.length := by
  rw [bulkOf, finalOf, List.length_map, blocks_length, List.length_take, List.length_drop, bulkBits, ceilDiv]
  omega

theorem resultFits_ocbEncrypt (k : AesCtx) (pt iv adata : Bits) (tlen : Nat) :
    ResultFits (ocbEncrypt k pt iv adata tlen) := by
  unfold ocbEncrypt
  split
  next => exact resultFits_error _
  next =>
    refine resultFits_capacity ?_
    have hsplit := bulkOf_finalOf_length pt
    simp only [ocbSeal, List.length_append, List.length_take, flatMap_bvToBits_length, ocbBulkEnc_out_length]
    omega

theorem resultFits_ocbDecrypt (k : AesCtx) {ct : Bits} (iv adata : Bits) (tlen : Nat) (h : fitsBuf ct.length = true) :
    ResultFits (ocbDecrypt k ct iv adata tlen) := by
  unfold ocbDecrypt
  split
  next => exact resultFits_error _
  next =>
    refine resultFits_ite (fun _ => resultFits_error _) fun _ => ?_
    refine resultFits_ite (fun _ => resultFits_ok (fitsBuf_mono ?_ h)) fun _ => resultFits_error _
    have hsplit := bulkOf_finalOf_length (ct.take (ct.length - tlen))
    rw [List.length_take] at hsplit
    simp only [List.length_append, List.length_take, flatMap_bvToBits_length, ocbBulkDec_out_length]
    omega

theorem gcmCtr_length_le (f : Block → Block) (ctr : Block) (l : List Bits) :
    (gcmCtr f ctr l).length ≤ l.flatten.length := by
  induction l generalizing ctr with
  | nil => exact le_rfl
  | cons b bs ih =>
    have := ih (inc32 ctr)
    rw [gcmCtr, List.flatten_cons, List.length_append, List.length_append, xorBits_length]
    omega

theorem gcmCtr_blocks_length_le (f : Block → Block) (ctr : Block) (x : Bits) :
    (gcmCtr f ctr (blocks x)).length ≤ x.length := by
  simpa only [flatten_blocks] using gcmCtr_length_le f ctr (blocks x)

theorem resultFits_gcmEncrypt (k : AesCtx) (pt iv adata : Bits) (tlen : Nat) :
    ResultFits (gcmEncrypt k pt iv adata tlen) := by
  unfold gcmEncrypt
  split
  next => exact resultFits_error _
  next =>
    refine resultFits_capacity ?_
    rw [List.length_append]
    exact Nat.add_le_add (gcmCtr_blocks_length_le _ _ _) (List.length_take_le _ _)

theorem resultFits_gcmDecrypt (k : AesCtx) {ct : Bits} (iv adata : Bits) (tlen : Nat) (h : fitsBuf ct.length = true) :
    ResultFits (gcmDecrypt k ct iv adata tlen) := by
  unfold gcmDecrypt
  split
  next => exact resultFits_error _
  next =>
    refine resultFits_ite (fun _ => resultFits_error _) fun _ => ?_
    refine resultFits_ite (fun _ => ?_) fun _ => resultFits_error _
    exact resultFits_ok (fitsBuf_mono ((gcmCtr_blocks_length_le _ _ _).trans (List.length_take_le' _ _)) h)

/-! The envelope (R365, R367, R372, R373) -/

theorem resultFits_envDecrypt {r : EnvRecord} (pw : Bits) (rawkey : Bool) (h : fitsBuf r.ct.length = true) :
    ResultFits (envDecrypt r pw rawkey) := by
  unfold envDecrypt
  split
  next => exact resultFits_error _
  next mode _ =>
    cases mode with
    | ccm => exact resultFits_ccmDecrypt _ _ _ _ h
    | gcm => exact resultFits_gcmDecrypt _ _ _ _ h
    | ocb2 => exact resultFits_ocbDecrypt _ _ _ _ h
    | cbc => exact resultFits_cbcDecrypt _ _ _ h

theorem resultFits_envEncrypt (r : EnvRecord) (pw : Bits) (rawkey : Bool) (pt : Bits) :
    ResultFits (envEncrypt r pw rawkey pt) := by
  unfold envEncrypt
  split
  next => exact resultFits_error _
  next mode _ =>
    cases mode with
    | ccm => exact resultFits_ccmEncrypt _ _ _ _ _
    | gcm => exact resultFits_gcmEncrypt _ _ _ _ _
    | ocb2 => exact resultFits_ocbEncrypt _ _ _ _ _
    | cbc => exact resultFits_cbcEncrypt _ _ _ _

theorem resultFits_envSerialize (r : EnvRecord) : ResultFits (envSerialize r) := by
  refine resultFits_ite (fun _ => resultFits_error _) fun _ => ?_
  split
  next => exact resultFits_error _
  next => exact resultFits_ite (fun _ => resultFits_error _) fun _ => resultFits_capacity le_rfl

/-- The four binary fields of a record fit their buffers. -/
structure EnvRecord.Fits (r : EnvRecord) : Prop where
  adata : fitsBuf r.adata.length = true
  iv : fitsBuf r.iv.length = true
  salt : fitsBuf r.salt.length = true
  ct : fitsBuf r.ct.length = true

theorem envRecord_defaults_fits : EnvRecord.defaults.Fits := by
  have hempty : fitsBuf ([] : Bits).length = true := fitsBuf_of_le (by decide)
  exact ⟨hempty, hempty, hempty, hempty⟩

theorem resultFits_envBinary (v : EnvValue) : ResultFits (envBinary v) := by
  cases v with
  | string t =>
    rw [envBinary]
    split
    next => exact resultFits_error _
    next => exact resultFits_capacity le_rfl
  | integer n => exact resultFits_error _
  | boolean b => exact resultFits_error _

theorem except_map_eq_ok {ε α β : Type} {f : α → β} {r : Except ε α} {y : β} (h : r.map f = .ok y) :
    ∃ x, r = .ok x ∧ f x = y := by
  cases r with
  | error e => cases h
  | ok x => exact ⟨x, rfl, Except.ok.inj h⟩

theorem envRecord_putValue_fits {r r' : EnvRecord} {v : EnvValue} {n : EnvName} (hr : r.Fits)
    (h : r.putValue v n = .ok r') : r'.Fits := by
  cases n <;> obtain ⟨x, hx, rfl⟩ := except_map_eq_ok h
  case adata => exact { hr with adata := resultFits_envBinary v x hx }
  case iv => exact { hr with iv := resultFits_envBinary v x hx }
  case salt => exact { hr with salt := resultFits_envBinary v x hx }
  case ct => exact { hr with ct := resultFits_envBinary v x hx }
  all_goals exact ⟨hr.adata, hr.iv, hr.salt, hr.ct⟩

theorem takePairs_fits {ps : List (List Byte × EnvValue)} : ∀ {seen : List EnvName} {r r' : EnvRecord}, r.Fits →
    takePairs seen r ps = .ok r' → r'.Fits := by
  induction ps with
  | nil =>
    intro seen r r' hr h
    cases h
    exact hr
  | cons p ps ih =>
    intro seen r r' hr h
    unfold takePairs at h
    split at h
    next => cases h
    next n _ =>
      split at h
      next => cases h
      next =>
        split at h
        next => cases h
        next r1 h1 => exact ih (envRecord_putValue_fits hr h1) h

theorem envParse_fits {t : Bits} {r : EnvRecord} (h : envParse t = .ok r) : r.Fits := by
  unfold envParse at h
  split at h
  next => cases h
  next =>
    dsimp only at h
    split at h
    next => cases h
    next =>
      split at h
      next => cases h
      next => exact takePairs_fits envRecord_defaults_fits h

/-! Legacy and current containers (R407 to R414, R432, R438) -/

theorem resultFits_rc2OneBlock (rk : Option Rc2Table) {f : Rc2Table → Bits → Bits} (x : Bits)
    (hf : ∀ k, (f k x).length = 64) : ResultFits (rc2OneBlock rk f x) := by
  cases rk with
  | none => exact resultFits_error _
  | some k =>
    exact resultFits_ite (fun _ => resultFits_error _) fun _ => resultFits_ok (fitsBuf_of_le (by rw [hf]; decide))

theorem stripNul_length_le (l : List Byte) : (stripNul l).length ≤ l.length := by
  rw [stripNul, List.length_reverse, ← List.length_reverse (as := l)]
  exact (List.dropWhile_sublist _).length_le

theorem resultFits_legacyDecrypt (pw : Bits) {blob : Bits} (hbytes : blob.length % 8 = 0)
    (h : fitsBuf blob.length = true) : ResultFits (legacyDecrypt pw blob) := by
  unfold legacyDecrypt
  split
  next => exact resultFits_error _
  next d hd =>
    obtain ⟨hlen, hwhole⟩ := b64DecodeBytes_bytesOf_length hd
    refine resultFits_ite (fun _ => resultFits_error _) fun hblocks => ?_
    refine resultFits_ite (fun _ => resultFits_ok (fitsBuf_mono ?_ h)) fun _ => resultFits_error _
    have hplain : ((splitEvery 64 d).flatMap (rc2D (legacyTable pw))).length = 64 * ceilDiv d.length 64 := by
      rw [flatMap_length_const (n := 64) _ fun x _ => rc2D_length _ x, splitEvery_length (by decide)]
    have hstrip := stripNul_length_le
      ((bytesOf ((splitEvery 64 d).flatMap (rc2D (legacyTable pw)))).drop 4)
    rw [List.length_drop, bytesOf_length, hplain] at hstrip
    rw [ofBytes_length]
    simp only [ceilDiv] at hlen hstrip
    omega

theorem resultFits_legacyEncrypt (pw pt : Bits) : ResultFits (legacyEncrypt pw pt) :=
  resultFits_capacity (by rw [ofBytes_length, b64EncodeBytes_length])

theorem enc0Frame_ct_length_le {d : Bits} {c : Enc0} (h : enc0Frame d = some c) : c.ct.length ≤ d.length := by
  unfold enc0Frame at h
  dsimp only at h
  split at h
  next => cases h
  next =>
    split at h
    next => cases h
    next =>
      cases h
      rw [slice_length]
      omega

theorem resultFits_enc0Decrypt (pw : Bits) {blob : Bits} (hbytes : blob.length % 8 = 0)
    (h : fitsBuf blob.length = true) : ResultFits (enc0Decrypt pw blob) := by
  unfold enc0Decrypt
  split
  next => exact resultFits_error _
  next d hd =>
    obtain ⟨hlen, -⟩ := b64DecodeBytes_bytesOf_length hd
    split
    next => exact resultFits_error _
    next c hc =>
      have hct := enc0Frame_ct_length_le hc
      have hfits : fitsBuf c.ct.length = true := fitsBuf_mono (by rw [ceilDiv] at hlen; omega) h
      refine resultFits_ite (fun _ => resultFits_error _) fun _ => ?_
      split
      next => exact resultFits_error _
      next pt hpt => exact resultFits_ok (resultFits_cbcDecrypt _ _ _ hfits pt hpt)

theorem resultFits_dispatchDecrypt (tag pw : Bits) {blob : Bits} (h : fitsBuf blob.length = true) :
    ResultFits (dispatchDecrypt tag pw blob) :=
  resultFits_ite
    (fun _ => resultFits_bytesOperands fun hbytes => resultFits_enc0Decrypt pw hbytes h)
    fun _ => resultFits_ite
      (fun _ => resultFits_bytesOperands fun hbytes => resultFits_legacyDecrypt pw hbytes h)
      fun _ => resultFits_error _

/-! PBKDF2 (R237, R238) -/

/-- The count and the length PBKDF2 accepts are below `2^31`, and the length fits (R237, R238). -/
theorem pbkdf2Params_eq_ok {c l : Word} {p : Nat × Nat} (h : pbkdf2Params (sext32 c) (sext32 l) = .ok p) :
    p.1 < 2 ^ 31 ∧ p.2 < 2 ^ 31 ∧ fitsBuf p.2 = true := by
  unfold pbkdf2Params at h
  split at h
  next => cases h
  next =>
    split at h
    next hfits =>
      cases h
      have hc := BitVec.toInt_lt (x := c)
      have hl := BitVec.toInt_lt (x := l)
      simp only [sext32] at hfits ⊢
      exact ⟨by omega, by omega, hfits⟩
    next => cases h

theorem resultFits_pbkdf2 (alg : HashAlg) (pw salt : Bits) (c l : Word) :
    ResultFits ((pbkdf2Params (sext32 c) (sext32 l)).map fun p => pbkdf2Of alg pw salt p.1 p.2) := by
  intro x hx
  obtain ⟨p, hp, rfl⟩ := except_map_eq_ok hx
  obtain ⟨-, -, hfits⟩ := pbkdf2Params_eq_ok hp
  exact fitsBuf_mono (pbkdf2Of_length_le alg pw salt p.1 p.2) hfits

end Sys2Proof.Machine
end

section
/-! How a command can end (30_encoding.md R100 step 6; 60_exceptions.md R456), said once for all commands, and what
follows: who writes what (10_state.md R25 to R38, R131). -/

namespace Sys2Proof.Machine

/-- Every buffer fits the capacity (R22). -/
def BufsFit (s : State) : Prop := ∀ b, fitsBuf (s.bufAt b).length = true

/-- The ends of a command, by what it writes. Commands with one bit string or one word as their result share a
constructor; of a bit string it says that it fits when the operands do (R132). -/
inductive CommandEnd : Instr → State → State → Prop where
  | failed {i : Instr} {s : State} (e : Err) : errorBuffer i = none → CommandEnd i s (s.fail (opcode i) e)
  | failedTo {i : Instr} {s : State} {a : BufIx} (e : Err) : errorBuffer i = some a →
      CommandEnd i s (s.failedTo (opcode i) a e)
  | wrote {i : Instr} {s : State} {a : BufIx} {x : Bits} : errorBuffer i = some a →
      (BufsFit s → fitsBuf x.length = true) → CommandEnd i s (s.wrote (opcode i) a x)
  | wroteScal {i : Instr} {s : State} {a : ScalIx} {v : Word} : mayWriteScal i a = true →
      CommandEnd i s (s.wroteScal (opcode i) a v)
  | nop {s : State} : CommandEnd .nop s (s.succeed (opcode .nop))
  | zeroize {s : State} : CommandEnd .zeroize s ((zeroized s).succeed (opcode .zeroize))
  | aesKey {s : State} {a : KeyIx} {b : BufIx} : isAesKeyLength (s.bufAt b).length = true →
      CommandEnd (.aesKey a b) s ((s.setKey a (aesContext (s.bufAt b))).succeed (opcode (.aesKey a b)))
  | hashReset {s : State} {a : HashIx} {alg : HashAlg} :
      CommandEnd (.hashReset a alg) s ((s.setHash a (hashFresh alg)).succeed (opcode (.hashReset a alg)))
  | hashUpdate {s : State} {a : HashIx} {b : BufIx} {c c' : HashCtx} : s.hashAt a = some c →
      hashUpdate c (s.bufAt b) = .ok c' →
      CommandEnd (.hashUpdate a b) s ((s.setHash a c').succeed (opcode (.hashUpdate a b)))
  | hashFinal {s : State} {a : BufIx} {e : HashIx} {c : HashCtx} : s.hashAt e = some c →
      CommandEnd (.hashFinal a e) s
        (((s.setBuf a (hashFinish c)).setHash e (hashFresh c.alg)).succeed (opcode (.hashFinal a e)))
  | pbkdf2Init {s : State} {b c : BufIx} {d e : ScalIx} {alg : HashAlg} {p : Nat × Nat} :
      pbkdf2Params (s.signedAt d) (s.signedAt e) = .ok p →
      CommandEnd (.pbkdf2Init b c d e alg) s
        ((s.setPbk (pbkStart alg (s.bufAt b) (s.bufAt c) p.1 p.2)).succeed (opcode (.pbkdf2Init b c d e alg)))
  | pbkdf2Step {s : State} {a b : ScalIx} {e : PbkEngine} : e = pbkSteps (s.natAt b) s.pbk →
      CommandEnd (.pbkdf2Step a b) s
        (((s.setPbk e).setScal a (if e.state = .done then 1 else 0)).succeed (opcode (.pbkdf2Step a b)))
  | pbkdf2Read {s : State} {a : BufIx} : s.pbk.state = .done →
      CommandEnd (.pbkdf2Read a) s
        (((s.setBuf a (slice s.pbk.out 0 s.pbk.length)).setPbk PbkEngine.reset).succeed (opcode (.pbkdf2Read a)))
  | entropy {i : Instr} {s : State} {kind n est : Nat} {body : Bits} {tag : TagIx} {p : Prng} :
      mayWriteRng i = true → addEntropy s.rng s.now kind body n est tag = .done p →
      CommandEnd i s ((s.setRng p).succeed (opcode i))
  | rngWords {s : State} {a : BufIx} {c : ScalIx} {level t : Nat} {p : Prng} {cipher : AesCtx} {r : Bits × Gen} :
      fitsBuf (32 * s.natAt c) = true → p = preparedPrng s.rng s.now s.noiseBits t → p.cipher = some cipher →
      r = generate (s.natAt c) { key := p.key, cipher := cipher, ctr := p.ctr } →
      CommandEnd (.rngWords a c level) s
        (((s.setBuf a r.1).setRng (p.withGen r.2)).succeed (opcode (.rngWords a c level)))
  | envParse {s : State} {b : BufIx} {r : EnvRecord} : envParse (s.bufAt b) = .ok r →
      CommandEnd (.envParse b) s ((s.setEnvRecord r).succeed (opcode (.envParse b)))
  | rc2Key {s : State} {b : BufIx} {c : ScalIx} :
      CommandEnd (.rc2Key b c) s
        ((s.setRk (rc2Table (bytesOf (s.bufAt b)) (s.natAt c))).succeed (opcode (.rc2Key b c)))

/-! Each shape of a command has its ends -/

section Shapes

variable {i : Instr} {s t : State}

theorem CommandEnd.of_resultToBuf {a : BufIx} {r : Except Err Bits} (ha : errorBuffer i = some a)
    (h : resultToBuf (opcode i) a r s = .next t) (hfits : BufsFit s → ResultFits r) : CommandEnd i s t := by
  obtain ⟨x, rfl, rfl⟩ | ⟨e, rfl, rfl⟩ := resultToBuf_cases h
  · exact .wrote ha fun hs => hfits hs x rfl
  · exact .failedTo e ha

theorem CommandEnd.of_resultToScal {a : ScalIx} {r : Except Err Word} (ha : mayWriteScal i a = true)
    (hi : errorBuffer i = none) (h : resultToScal (opcode i) a r s = .next t) : CommandEnd i s t := by
  obtain ⟨v, rfl, rfl⟩ | ⟨e, rfl, rfl⟩ := resultToScal_cases h
  · exact .wroteScal ha
  · exact .failed e hi

theorem CommandEnd.of_finishEntropy {kind n est : Nat} {body : Bits} {tag : TagIx} (hrng : mayWriteRng i = true)
    (hi : errorBuffer i = none)
    (h : finishEntropy (opcode i) (addEntropy s.rng s.now kind body n est tag) s = .next t) : CommandEnd i s t := by
  obtain ⟨p, hp, rfl⟩ | ⟨e, _, rfl⟩ := finishEntropy_cases h
  · exact .entropy hrng hp
  · exact .failed e hi

theorem CommandEnd.of_raise {e : Err} (hi : errorBuffer i = none) (h : raise (opcode i) e s = .next t) :
    CommandEnd i s t :=
  Host.Outcome.next.inj h ▸ .failed e hi

theorem CommandEnd.of_raiseTo {a : BufIx} {e : Err} (ha : errorBuffer i = some a)
    (h : raiseTo (opcode i) a e s = .next t) : CommandEnd i s t :=
  Host.Outcome.next.inj h ▸ .failedTo e ha

theorem CommandEnd.of_finish {u : State} (h : finish (opcode i) u = .next t)
    (hu : CommandEnd i s (u.succeed (opcode i))) : CommandEnd i s t :=
  Host.Outcome.next.inj h ▸ hu

end Shapes

/-! The commands that are of none of the shared shapes -/

section

variable {s t : State}

theorem commandEnd_aesKey {a : KeyIx} {b : BufIx} (h : execAesKey a b s = .next t) : CommandEnd (.aesKey a b) s t := by
  unfold execAesKey at h
  split at h
  next hlen => exact .of_finish h (.aesKey hlen)
  next => exact .of_raise rfl h

theorem commandEnd_hashUpdate {a : HashIx} {b : BufIx} (h : execHashUpdate a b s = .next t) :
    CommandEnd (.hashUpdate a b) s t := by
  unfold execHashUpdate at h
  split at h
  next => exact .of_raise rfl h
  next c hc =>
    split at h
    next => exact .of_raise rfl h
    next c' hc' => exact .of_finish h (.hashUpdate hc hc')

theorem commandEnd_hashFinal {a : BufIx} {e : HashIx} (h : execHashFinal a e s = .next t) :
    CommandEnd (.hashFinal a e) s t := by
  unfold execHashFinal at h
  split at h
  next => exact .of_raiseTo rfl h
  next c hc => exact .of_finish h (.hashFinal hc)

theorem commandEnd_pbkdf2Init {b c : BufIx} {d e : ScalIx} {alg : HashAlg}
    (h : execPbkdf2Init b c d e alg s = .next t) : CommandEnd (.pbkdf2Init b c d e alg) s t := by
  unfold execPbkdf2Init at h
  split at h
  next => exact .of_raise rfl h
  next p hp => exact .of_finish h (.pbkdf2Init hp)

theorem commandEnd_pbkdf2Step {a b : ScalIx} (h : execPbkdf2Step a b s = .next t) :
    CommandEnd (.pbkdf2Step a b) s t := by
  unfold execPbkdf2Step at h
  split at h
  next => exact .of_raise rfl h
  next => exact .of_finish h (.pbkdf2Step rfl)

theorem commandEnd_pbkdf2Read {a : BufIx} (h : execPbkdf2Read a s = .next t) : CommandEnd (.pbkdf2Read a) s t := by
  unfold execPbkdf2Read at h
  split at h
  next hdone => exact .of_finish h (.pbkdf2Read hdone)
  next => exact .of_raiseTo rfl h

theorem commandEnd_rngAddentW {b : BufIx} {c : ScalIx} {tag : TagIx} {defest : Bool}
    (h : execRngAddentW b c tag defest s = .next t) : CommandEnd (.rngAddentW b c tag defest) s t := by
  unfold execRngAddentW at h
  dsimp only at h
  split at h
  next => exact .of_raise rfl h
  next => exact .of_finishEntropy rfl rfl h

theorem commandEnd_rngAddentS {b : BufIx} {c : ScalIx} {tag : TagIx} {defest : Bool}
    (h : execRngAddentS b c tag defest s = .next t) : CommandEnd (.rngAddentS b c tag defest) s t := by
  unfold execRngAddentS at h
  dsimp only at h
  split at h
  next => exact .of_raise rfl h
  next => exact .of_finishEntropy rfl rfl h

theorem commandEnd_rngWords {a : BufIx} {c : ScalIx} {level : Nat} (h : execRngWords a c level s = .next t) :
    CommandEnd (.rngWords a c level) s t := by
  unfold execRngWords at h
  split at h
  next => exact .of_raiseTo rfl h
  next threshold _ =>
    split at h
    next => exact .of_raiseTo rfl h
    next hfits =>
      split at h
      next => exact .of_raiseTo rfl h
      next =>
        dsimp only at h
        split at h
        next => cases h
        next cipher hcipher => exact .of_finish h (.rngWords (by simpa using hfits) rfl hcipher rfl)

theorem commandEnd_envParse {b : BufIx} (h : execEnvParse b s = .next t) : CommandEnd (.envParse b) s t := by
  unfold execEnvParse at h
  split at h
  next => exact .of_raise rfl h
  next r hr => exact .of_finish h (.envParse hr)

theorem commandEnd_rc2Key {b : BufIx} {c : ScalIx} (h : execRc2Key b c s = .next t) : CommandEnd (.rc2Key b c) s t := by
  unfold execRc2Key at h
  dsimp only at h
  split at h
  next => exact .of_raise rfl h
  next =>
    split at h
    next => exact .of_raise rfl h
    next => exact .of_finish h .rc2Key

end

theorem fitsBuf_hashOf (alg : HashAlg) (m : Bits) : fitsBuf (hashOf alg m).length = true :=
  fitsBuf_of_le (by rw [hashOf_length]; exact (hashDigestBits_le alg).trans (by decide))

/-- What a command that answers a next state can have done. -/
theorem commandEnd_of_exec {i : Instr} {s t : State} (h : exec i s = .next t) : CommandEnd i s t := by
  cases i with
  | nop => exact .of_finish h .nop
  | zeroize => exact .of_finish h .zeroize
  | baLen a b => exact .of_resultToScal (beq_self_eq_true a) rfl h
  | baSlice a b c d => exact .of_resultToBuf rfl h fun hs => resultFits_baSlice _ _ (hs b)
  | baExtract a b c d => exact .of_resultToScal (beq_self_eq_true a) rfl h
  | baConcat a b c => exact .of_resultToBuf rfl h fun _ => resultFits_baConcat _ _
  | baClamp a b c => exact .of_finish h (.wrote rfl fun hs => fitsBuf_mono (baClamp_length_le _ _) (hs b))
  | baEqual a b c => exact .of_finish h (.wroteScal (beq_self_eq_true a))
  | baPartial a b c high => exact .of_resultToBuf rfl h fun _ => resultFits_baPartial _ _ _
  | baGetPartial a b => exact .of_finish h (.wroteScal (beq_self_eq_true a))
  | hexDec a b => exact .of_resultToBuf rfl h fun hs => resultFits_hexDecode (hs b)
  | hexEnc a b => exact .of_resultToBuf rfl h fun _ => resultFits_hexEncode _
  | b64Dec a b url => exact .of_resultToBuf rfl h fun hs => resultFits_b64Decode (hs b)
  | b64Enc a b url nopad => exact .of_resultToBuf rfl h fun _ => resultFits_b64Encode _ _ _
  | aesKey a b => exact commandEnd_aesKey h
  | aesEnc a b e => exact .of_resultToBuf rfl h fun _ => resultFits_withKey fun _ => resultFits_oneBlock _ _
  | aesDec a b e => exact .of_resultToBuf rfl h fun _ => resultFits_withKey fun _ => resultFits_oneBlock _ _
  | hashReset a alg => exact .of_finish h .hashReset
  | hashUpdate a b => exact commandEnd_hashUpdate h
  | hashFinal a e => exact commandEnd_hashFinal h
  | hashDigest a b alg => exact .of_finish h (.wrote rfl fun _ => fitsBuf_hashOf _ _)
  | hmac a b c alg => exact .of_finish h (.wrote rfl fun _ => fitsBuf_hashOf _ _)
  | pbkdf2 a b c d e alg => exact .of_resultToBuf rfl h fun _ => resultFits_pbkdf2 _ _ _ _ _
  | pbkdf2Init b c d e alg => exact commandEnd_pbkdf2Init h
  | pbkdf2Step a b => exact commandEnd_pbkdf2Step h
  | pbkdf2Read a => exact commandEnd_pbkdf2Read h
  | cbcEnc a b c d e =>
    exact .of_resultToBuf rfl h fun _ => resultFits_withKey fun _ => resultFits_cbcEncrypt _ _ _ _
  | cbcDec a b c d e =>
    exact .of_resultToBuf rfl h fun hs => resultFits_withKey fun _ => resultFits_cbcDecrypt _ _ _ (hs b)
  | ccmEnc a b c d e tl =>
    exact .of_resultToBuf rfl h fun _ => resultFits_withKey fun _ => resultFits_ccmEncrypt _ _ _ _ _
  | ccmDec a b c d e tl =>
    exact .of_resultToBuf rfl h fun hs => resultFits_withKey fun _ => resultFits_ccmDecrypt _ _ _ _ (hs b)
  | ocb2Enc a b c d e tl =>
    exact .of_resultToBuf rfl h fun _ => resultFits_withKey fun _ => resultFits_ocbEncrypt _ _ _ _ _
  | ocb2Dec a b c d e tl =>
    exact .of_resultToBuf rfl h fun hs => resultFits_withKey fun _ => resultFits_ocbDecrypt _ _ _ _ (hs b)
  | gcmEnc a b c d e tl =>
    exact .of_resultToBuf rfl h fun _ => resultFits_withKey fun _ => resultFits_gcmEncrypt _ _ _ _ _
  | gcmDec a b c d e tl =>
    exact .of_resultToBuf rfl h fun hs => resultFits_withKey fun _ => resultFits_gcmDecrypt _ _ _ _ (hs b)
  | rngAddentN b c tag defest => exact .of_finishEntropy rfl rfl h
  | rngAddentW b c tag defest => exact commandEnd_rngAddentW h
  | rngAddentS b c tag defest => exact commandEnd_rngAddentS h
  | rngIsReady a level => exact .of_resultToScal (beq_self_eq_true a) rfl h
  | rngWords a c level => exact commandEnd_rngWords h
  | envDec a b rawkey => exact .of_resultToBuf rfl h fun hs => resultFits_envDecrypt _ _ (hs ctBuf)
  | envEnc b c rawkey => exact .of_resultToBuf rfl h fun _ => resultFits_envEncrypt _ _ _ _
  | envParse b => exact commandEnd_envParse h
  | envSer a => exact .of_resultToBuf rfl h fun _ => resultFits_envSerialize _
  | md5 a b =>
    exact .of_resultToBuf rfl h fun _ => resultFits_ite (fun _ => resultFits_error _) fun _ =>
      resultFits_ok (fitsBuf_of_le (by rw [ofBytes_length, md5_length]; decide))
  | crc32 a b => exact .of_resultToScal (beq_self_eq_true a) rfl h
  | rc2Key b c => exact commandEnd_rc2Key h
  | rc2Enc a b => exact .of_resultToBuf rfl h fun _ => resultFits_rc2OneBlock _ _ fun k => rc2E_length k _
  | rc2Dec a b => exact .of_resultToBuf rfl h fun _ => resultFits_rc2OneBlock _ _ fun k => rc2D_length k _
  | legacyDec a b c =>
    exact .of_resultToBuf rfl h fun hs => resultFits_bytesOperands fun hbytes =>
      resultFits_legacyDecrypt _ hbytes (hs c)
  | legacyEnc a b c =>
    exact .of_resultToBuf rfl h fun _ => resultFits_bytesOperands fun _ => resultFits_legacyEncrypt _ _
  | enc0Dec a b c =>
    exact .of_resultToBuf rfl h fun hs => resultFits_bytesOperands fun hbytes =>
      resultFits_enc0Decrypt _ hbytes (hs c)
  | dispatchDec a b c d e => exact .of_resultToBuf rfl h fun hs => resultFits_dispatchDecrypt _ _ (hs c)

/-! The frame of a command (O20), write by write -/

section Keeps

variable {i : Instr} {s t : State} (h : KeepsTheRest i s t)

theorem keepsTheRest_refl (i : Instr) (s : State) : KeepsTheRest i s s where
  bufs _ _ := rfl
  scals _ _ := rfl
  keys _ _ := rfl
  hashes _ _ := rfl
  rk _ := rfl
  engine _ := rfl
  generator _ := rfl
  envelope _ := rfl
  port _ := ⟨rfl, rfl⟩
  others := ⟨rfl, rfl, rfl, rfl, rfl, rfl, rfl⟩

include h

theorem KeepsTheRest.succeed (op : Byte) : KeepsTheRest i s (t.succeed op) := { h with }

theorem KeepsTheRest.fail (op : Byte) (e : Err) : KeepsTheRest i s (t.fail op e) := { h with }

theorem KeepsTheRest.setBuf {a : BufIx} (ha : mayWriteBuf i a = true) (x : Bits) : KeepsTheRest i s (t.setBuf a x) :=
  { h with
    bufs := fun b hb => by
      have hne : a ≠ b := fun hab => by simp [← hab, ha] at hb
      rw [bufAt_setBuf, if_neg hne, h.bufs b hb] }

theorem KeepsTheRest.setScal {a : ScalIx} (ha : mayWriteScal i a = true) (v : Word) :
    KeepsTheRest i s (t.setScal a v) :=
  { h with
    scals := fun j hj => by
      have hne : a ≠ j := fun haj => by simp [← haj, ha] at hj
      rw [scalAt_setScal, if_neg hne, h.scals j hj] }

theorem KeepsTheRest.setKey {a : KeyIx} (ha : mayWriteKey i a = true) (c : AesCtx) :
    KeepsTheRest i s (t.setKey a c) :=
  { h with
    keys := fun j hj => by
      have hne : a ≠ j := fun haj => by simp [← haj, ha] at hj
      rw [keyAt_setKey, if_neg hne, h.keys j hj] }

theorem KeepsTheRest.setHash {a : HashIx} (ha : mayWriteHash i a = true) (c : HashCtx) :
    KeepsTheRest i s (t.setHash a c) :=
  { h with
    hashes := fun j hj => by
      have hne : a ≠ j := fun haj => by simp [← haj, ha] at hj
      rw [hashAt_setHash, if_neg hne, h.hashes j hj] }

theorem KeepsTheRest.setRk (hi : mayWriteRk i = true) (k : Rc2Table) : KeepsTheRest i s (t.setRk k) :=
  { h with rk := fun hn => by simp [hi] at hn }

theorem KeepsTheRest.setPbk (hi : mayWriteEngine i = true) (e : PbkEngine) : KeepsTheRest i s (t.setPbk e) :=
  { h with engine := fun hn => by simp [hi] at hn }

theorem KeepsTheRest.setRng (hi : mayWriteRng i = true) (p : Prng) : KeepsTheRest i s (t.setRng p) :=
  { h with generator := fun hn => by simp [hi] at hn }

theorem KeepsTheRest.setEnv (hi : mayWriteEnv i = true) (r : EnvRegs) : KeepsTheRest i s (t.setEnv r) :=
  { h with envelope := fun hn => by simp [hi] at hn }

end Keeps

theorem mayWriteBuf_of_errorBuffer {i : Instr} {a : BufIx} (h : errorBuffer i = some a) : mayWriteBuf i a = true := by
  simp [mayWriteBuf, h]

/-- `ZEROIZE` writes all but what R131 excepts. -/
theorem keepsTheRest_zeroized (s : State) : KeepsTheRest .zeroize s (zeroized s) where
  bufs _ h := by simp [mayWriteBuf] at h
  scals _ h := by simp [mayWriteScal] at h
  keys _ h := by simp [mayWriteKey] at h
  hashes _ h := by simp [mayWriteHash] at h
  rk h := by simp [mayWriteRk] at h
  engine h := by simp [mayWriteEngine] at h
  generator _ := rfl
  envelope h := by simp [mayWriteEnv] at h
  port h := absurd rfl h
  others := ⟨rfl, rfl, rfl, rfl, rfl, rfl, rfl⟩

theorem CommandEnd.keepsTheRest {i : Instr} {s t : State} (h : CommandEnd i s t) : KeepsTheRest i s t := by
  have hs : KeepsTheRest i s s := keepsTheRest_refl i s
  cases h with
  | failed e hi => exact hs.fail _ e
  | failedTo e ha => exact (hs.setBuf (mayWriteBuf_of_errorBuffer ha) []).fail _ e
  | wrote ha _ => exact (hs.setBuf (mayWriteBuf_of_errorBuffer ha) _).succeed _
  | wroteScal ha => exact (hs.setScal ha _).succeed _
  | nop => exact hs.succeed _
  | zeroize => exact (keepsTheRest_zeroized s).succeed _
  | aesKey _ => exact (hs.setKey (beq_self_eq_true _) _).succeed _
  | hashReset => exact (hs.setHash (beq_self_eq_true _) _).succeed _
  | hashUpdate _ _ => exact (hs.setHash (beq_self_eq_true _) _).succeed _
  | hashFinal _ =>
    exact ((hs.setBuf (mayWriteBuf_of_errorBuffer rfl) _).setHash (beq_self_eq_true _) _).succeed _
  | pbkdf2Init _ => exact (hs.setPbk rfl _).succeed _
  | pbkdf2Step _ => exact ((hs.setPbk rfl _).setScal (beq_self_eq_true _) _).succeed _
  | pbkdf2Read _ => exact ((hs.setBuf (mayWriteBuf_of_errorBuffer rfl) _).setPbk rfl _).succeed _
  | entropy hi _ => exact (hs.setRng hi _).succeed _
  | rngWords _ _ _ _ => exact ((hs.setBuf (mayWriteBuf_of_errorBuffer rfl) _).setRng rfl _).succeed _
  | envParse _ =>
    exact (((((hs.setEnv rfl _).setBuf rfl _).setBuf rfl _).setBuf rfl _).setBuf rfl _).succeed _
  | rc2Key => exact (hs.setRk rfl _).succeed _

/-- Settles O20: each end of a command is made of writes the command may do. -/
theorem commandFrame : Obligations.CommandFrame := fun _ _ _ h => (commandEnd_of_exec h).keepsTheRest

end Sys2Proof.Machine
end

section
/-! The invariants that hold between commands: each step keeps the status registers consistent (10_state.md R29, R31,
R32), the context slots well formed (R25, R26), the buffers within their capacity and the PBKDF2 engine sound (R22, R37),
and the generator sound (R38). -/

namespace Sys2Proof.Machine

/-! Status registers (O14) -/

section

variable {s t : State}

/-- `StatusInv` looks at four registers. -/
theorem statusInv_congr (h : StatusInv s) (hstatus : t.status = s.status) (herr : t.err = s.err)
    (hfirst : t.errFirst = s.errFirst) (hlevel : t.defParanoia = s.defParanoia) : StatusInv t where
  idle := hstatus ▸ h.idle
  last := by rw [hstatus, herr, h.last]
  sticky := by rw [hstatus, hfirst, h.sticky]
  first := by rw [hfirst]; exact h.first
  level := hlevel ▸ h.level

theorem statusInv_reset : StatusInv State.reset := by
  refine ⟨rfl, ?_, ?_, ?_, ?_⟩ <;> decide

theorem StatusInv.succeed (h : StatusInv s) (op : Byte) : StatusInv (s.succeed op) :=
  { h with idle := rfl, last := by simp }

theorem errFirstAfter_code_ne_none {old : ErrReg} {op : Byte} {e : Err} (h : old.code = none → old = ErrReg.zero) :
    (errFirstAfter old { op := op, code := some e }).code ≠ none := by
  unfold errFirstAfter
  split
  next => simp
  next hw => exact fun hnone => hw (h hnone ▸ rfl)

theorem StatusInv.fail (h : StatusInv s) (op : Byte) (e : Err) : StatusInv (s.fail op e) := by
  have hcode : (s.fail op e).errFirst.code ≠ none := errFirstAfter_code_ne_none h.first
  have hne : (s.fail op e).errFirst ≠ ErrReg.zero := fun hz => hcode (hz ▸ rfl)
  exact { h with
    idle := rfl
    last := by simp
    sticky := ⟨fun _ => hne, fun _ => rfl⟩
    first := fun hnone => absurd hnone hcode }

theorem StatusInv.ackErrors (h : StatusInv s) : StatusInv (ackErrors s) :=
  { h with sticky := by simp [Machine.ackErrors], first := fun _ => rfl }

theorem StatusInv.regWrite (h : StatusInv s) (v : Word) (r : HostReg) : StatusInv (regWrite s v r) := by
  cases r with
  | errFirst => exact h.ackErrors
  | ctrl =>
    rw [regWrite_ctrl]
    split
    next hlevel => exact { h with level := hlevel }
    next => exact h
  | blen =>
    rw [regWrite_blen]
    split
    · exact statusInv_congr h rfl rfl rfl rfl
    · exact h
  | bdata =>
    rw [regWrite_bdata]
    split
    · exact statusInv_congr h rfl rfl rfl rfl
    · exact h
  | _ => exact statusInv_congr h rfl rfl rfl rfl

theorem CommandEnd.statusInv {i : Instr} (hend : CommandEnd i s t) (h : StatusInv s) : StatusInv t := by
  cases hend with
  | failed e _ => exact h.fail _ e
  | failedTo e _ =>
    refine StatusInv.fail ?_ _ e
    exact statusInv_congr h rfl rfl rfl rfl
  | _ =>
    refine StatusInv.succeed ?_ _
    exact statusInv_congr h rfl rfl rfl rfl

end

/-- Settles O14, by the kind of the step. -/
theorem stepKeepsStatus : Obligations.StepKeepsStatus := by
  intro s t h hstep
  cases stepped_of_step hstep with
  | idle _ => exact h
  | read _ =>
    rw [regReadEffect_eq]
    exact statusInv_congr h rfl rfl rfl rfl
  | write _ _ =>
    refine StatusInv.regWrite ?_ _ _
    exact statusInv_congr h rfl rfl rfl rfl
  | setTime _ => exact statusInv_congr h rfl rfl rfl rfl
  | setNoise _ => exact statusInv_congr h rfl rfl rfl rfl
  | reset _ => exact statusInv_congr statusInv_reset rfl rfl rfl rfl
  | illegal _ _ _ =>
    refine StatusInv.fail ?_ _ _
    exact statusInv_congr h rfl rfl rfl rfl
  | command _ _ _ hexec => exact (commandEnd_of_exec hexec).statusInv (statusInv_congr h rfl rfl rfl rfl)

/-! Hash contexts (R210 to R212) -/

theorem shaOk_fresh {w : Nat} (p : ShaParams w) : ShaOk p (shaFresh p) where
  pending := (Nat.zero_mod _).symm
  length := Nat.two_pow_pos 64

theorem shaOk_of_shaUpdate {w : Nat} {p : ShaParams w} {c c' : ShaState w} {data : Bits} (hc : ShaOk p c)
    (h : shaUpdate p c data = .ok c') : ShaOk p c' := by
  unfold shaUpdate at h
  split at h
  next => cases h
  next hlen =>
    cases h
    refine ⟨?_, Nat.lt_of_not_le hlen⟩
    simp only [shaAbsorb, List.length_drop, List.length_append, hc.pending]
    rw [← Nat.mod_eq_sub_div_mul, Nat.mod_add_mod]

theorem hashOk_fresh (alg : HashAlg) : HashOk (hashFresh alg) := by
  cases alg <;> exact shaOk_fresh _

theorem hashOk_of_hashUpdate {c c' : HashCtx} {data : Bits} (hc : HashOk c) (h : hashUpdate c data = .ok c') :
    HashOk c' := by
  cases c with
  | sha256 x =>
    obtain ⟨x', hx', rfl⟩ := except_map_eq_ok h
    exact shaOk_of_shaUpdate hc hx'
  | sha512 x =>
    obtain ⟨x', hx', rfl⟩ := except_map_eq_ok h
    exact shaOk_of_shaUpdate hc hx'

/-! Context slots (O15) -/

section

variable {s t : State}

theorem slotInv_congr (h : SlotInv s) (hkeys : t.keys = s.keys) (hhashes : t.hashes = s.hashes) : SlotInv t where
  keys i c hc := h.keys i c (by rwa [State.keyAt, ← hkeys])
  hashes i c hc := h.hashes i c (by rwa [State.hashAt, ← hhashes])

theorem slotInv_reset : SlotInv State.reset where
  keys i c hc := by simp [State.keyAt, State.reset, Vector.get_eq_getElem] at hc
  hashes i c hc := by simp [State.hashAt, State.reset, Vector.get_eq_getElem] at hc

theorem SlotInv.setKey (h : SlotInv s) (a : KeyIx) {key : Bits} (hkey : isAesKeyLength key.length = true) :
    SlotInv (s.setKey a (aesContext key)) :=
  { h with
    keys := fun i c hc => by
      rw [keyAt_setKey] at hc
      split at hc
      · exact ⟨key, hkey, (Option.some.inj hc).symm⟩
      · exact h.keys i c hc }

theorem SlotInv.setHash (h : SlotInv s) (a : HashIx) {c : HashCtx} (hc : HashOk c) : SlotInv (s.setHash a c) :=
  { h with
    hashes := fun i c' hc' => by
      rw [hashAt_setHash] at hc'
      split at hc'
      · exact Option.some.inj hc' ▸ hc
      · exact h.hashes i c' hc' }

theorem CommandEnd.slotInv {i : Instr} (hend : CommandEnd i s t) (h : SlotInv s) : SlotInv t := by
  cases hend with
  | zeroize => exact slotInv_congr slotInv_reset rfl rfl
  | aesKey hlen => exact slotInv_congr (h.setKey _ hlen) rfl rfl
  | hashReset => exact slotInv_congr (h.setHash _ (hashOk_fresh _)) rfl rfl
  | hashUpdate hc hc' => exact slotInv_congr (h.setHash _ (hashOk_of_hashUpdate (h.hashes _ _ hc) hc')) rfl rfl
  | hashFinal _ => exact slotInv_congr (h.setHash _ (hashOk_fresh _)) rfl rfl
  | _ => exact slotInv_congr h rfl rfl

end

/-- Settles O15, by the kind of the step: only reset and commands reach the slots. -/
theorem stepKeepsSlots : Obligations.StepKeepsSlots := by
  intro s t h hstep
  cases stepped_of_step hstep with
  | read _ =>
    rw [regReadEffect_eq]
    exact slotInv_congr h rfl rfl
  | write _ _ =>
    obtain ⟨hkeys, hhashes, -, -⟩ := regWrite_secrets _ _ _
    exact slotInv_congr h hkeys hhashes
  | reset _ => exact slotInv_congr slotInv_reset rfl rfl
  | command _ _ _ hexec => exact (commandEnd_of_exec hexec).slotInv (slotInv_congr h rfl rfl)
  | _ => exact slotInv_congr h rfl rfl

/-! The PBKDF2 engine (R240 to R244) -/

theorem engineOk_reset : EngineOk PbkEngine.reset where
  count := by decide
  length := by decide
  fits := fitsBuf_of_le (by decide)
  block := le_rfl
  round := by decide
  out := rfl
  fresh _ := ⟨rfl, rfl⟩
  going h := absurd h (by decide)
  idle _ := rfl
  running h := by cases h
  finished h := by cases h

theorem engineOk_pbkStart (alg : HashAlg) (pw salt : Bits) {count length : Nat} (hcount : count < 2 ^ 31)
    (hlength : length < 2 ^ 31) (hfits : fitsBuf length = true) : EngineOk (pbkStart alg pw salt count length) where
  count := hcount
  length := hlength
  fits := hfits
  block := le_rfl
  round := Nat.lt_of_lt_of_le Nat.one_pos (le_max_right _ _)
  out := by simp [pbkStart]
  fresh _ := ⟨rfl, rfl⟩
  going h := absurd h (Nat.lt_irrefl 0)
  idle h := by
    simp only [pbkStart] at h
    split at h <;> cases h
  running h := by
    simp only [pbkStart] at h ⊢
    split at h
    next hpos => exact hpos
    next => cases h
  finished h := by
    simp only [pbkStart] at h ⊢
    split at h
    next => cases h
    next hzero => exact Nat.le_of_not_lt hzero

/-- The PRF value of the engine's next round (R243). -/
def nextPrf (e : PbkEngine) : Bits :=
  if e.i = 0 then hmacOf e.alg e.pw (e.salt ++ natToBits 32 e.k) else hmacOf e.alg e.pw e.last

/-- The accumulator after the engine's next round (R243). -/
def nextAcc (e : PbkEngine) : Bits := if e.i = 0 then nextPrf e else xorBits e.acc (nextPrf e)

theorem pbkRound_eq (e : PbkEngine) :
    pbkRound e =
      if max e.count 1 ≤ e.i + 1 then
        { e with
          out := e.out ++ nextAcc e, k := e.k + 1, i := 0, last := [], acc := []
          state := if e.length ≤ (e.out ++ nextAcc e).length then .done else e.state }
      else { e with i := e.i + 1, last := nextPrf e, acc := nextAcc e } := rfl

theorem nextPrf_length (e : PbkEngine) : (nextPrf e).length = hashDigestBits e.alg := by
  unfold nextPrf
  split <;> exact hmacOf_length _ _ _

theorem nextAcc_length {e : PbkEngine} (h : EngineOk e) : (nextAcc e).length = hashDigestBits e.alg := by
  unfold nextAcc
  split
  next => exact nextPrf_length e
  next hi =>
    obtain ⟨-, hacc⟩ := h.going (Nat.pos_of_ne_zero hi)
    rw [xorBits_length, hacc, nextPrf_length, Nat.min_self]

/-- A round either closes a block or goes on within it (R243). -/
theorem engineOk_pbkRound {e : PbkEngine} (h : EngineOk e) (hrun : e.state = .run) : EngineOk (pbkRound e) := by
  rw [pbkRound_eq]
  split
  next hlast =>
    have hblock := h.block
    have hout : (e.out ++ nextAcc e).length = (e.k + 1 - 1) * hashDigestBits e.alg := by
      rw [List.length_append, h.out, nextAcc_length h, ← Nat.succ_mul]
      congr 1
      omega
    exact { h with
      block := Nat.le_add_left 1 e.k
      round := Nat.lt_of_lt_of_le Nat.one_pos (le_max_right _ _)
      out := hout
      fresh := fun _ => ⟨rfl, rfl⟩
      going := fun hi => absurd hi (Nat.lt_irrefl 0)
      idle := fun hidle => by
        dsimp only at hidle
        split at hidle
        · cases hidle
        · rw [hrun] at hidle
          cases hidle
      running := fun hrun' => by
        dsimp only at hrun' ⊢
        split at hrun'
        next => cases hrun'
        next hshort => exact Nat.lt_of_not_le hshort
      finished := fun hdone => by
        dsimp only at hdone ⊢
        split at hdone
        next hlong => exact hlong
        next =>
          rw [hrun] at hdone
          cases hdone }
  next hmore =>
    exact { h with
      round := Nat.lt_of_not_le hmore
      fresh := fun hi => absurd hi (Nat.succ_ne_zero _)
      going := fun _ => ⟨nextPrf_length e, nextAcc_length h⟩
      idle := fun hidle => by
        dsimp only at hidle
        rw [hrun] at hidle
        cases hidle }

theorem engineOk_pbkSteps {q : Nat} : ∀ {e : PbkEngine}, EngineOk e → EngineOk (pbkSteps q e) := by
  induction q with
  | zero => exact id
  | succ q ih =>
    intro e h
    unfold pbkSteps
    split
    next hrun => exact ih (engineOk_pbkRound h hrun)
    next => exact h

/-! Buffers and engine (O16) -/

section

variable {s t : State}

theorem bufferInv_congr (h : BufferInv s) (hbuf : t.buf = s.buf) (hpbk : t.pbk = s.pbk) : BufferInv t where
  bufs b := by
    rw [State.bufAt, hbuf]
    exact h.bufs b
  engine := hpbk ▸ h.engine

theorem bufferInv_reset : BufferInv State.reset where
  bufs b := by
    have hempty : State.reset.bufAt b = [] := by simp [State.bufAt, State.reset, Vector.get_eq_getElem]
    rw [hempty]
    exact fitsBuf_of_le (by decide)
  engine := engineOk_reset

theorem BufferInv.setBuf (h : BufferInv s) (a : BufIx) {x : Bits} (hx : fitsBuf x.length = true) :
    BufferInv (s.setBuf a x) :=
  { h with
    bufs := fun b => by
      rw [bufAt_setBuf]
      split
      · exact hx
      · exact h.bufs b }

theorem BufferInv.setPbk (h : BufferInv s) {e : PbkEngine} (he : EngineOk e) : BufferInv (s.setPbk e) :=
  { h with engine := he }

theorem bufWithWord_length (x : Bits) (p : Nat) (v : Word) : (bufWithWord x p v).length = x.length := by
  simp only [bufWithWord, List.length_append, slice_length, bvToBits_length]
  omega

theorem BufferInv.regWrite (h : BufferInv s) (v : Word) (r : HostReg) : BufferInv (regWrite s v r) := by
  cases r with
  | ctrl =>
    rw [regWrite_ctrl]
    split
    · exact bufferInv_congr h rfl rfl
    · exact h
  | blen =>
    rw [regWrite_blen]
    split
    next hfits =>
      have hzeros : fitsBuf (zeros v.toNat).length = true := by rwa [zeros, List.length_replicate]
      exact bufferInv_congr (h.setBuf s.bsel hzeros) rfl rfl
    next => exact h
  | bdata =>
    rw [regWrite_bdata]
    split
    · have hword : fitsBuf (bufWithWord (s.bufAt s.bsel) s.bptr.toNat v).length = true := by
        rw [bufWithWord_length]
        exact h.bufs s.bsel
      exact bufferInv_congr (h.setBuf s.bsel hword) rfl rfl
    · exact h
  | _ => exact bufferInv_congr h rfl rfl

theorem BufferInv.setEnvRecord (h : BufferInv s) {r : EnvRecord} (hr : r.Fits) : BufferInv (s.setEnvRecord r) :=
  ((((bufferInv_congr h rfl rfl : BufferInv (s.setEnv r.regs)).setBuf adataBuf hr.adata).setBuf ivBuf hr.iv).setBuf
    saltBuf hr.salt).setBuf ctBuf hr.ct

theorem fitsBuf_nil : fitsBuf ([] : Bits).length = true := fitsBuf_of_le (by decide)

theorem generate_length_le (n : Nat) (g : Gen) : (generate n g).1.length ≤ 32 * n := List.length_take_le _ _

theorem fitsBuf_hashFinish (c : HashCtx) : fitsBuf (hashFinish c).length = true :=
  fitsBuf_of_le (by rw [hashFinish_length]; exact (hashDigestBits_le _).trans (by decide))

theorem CommandEnd.bufferInv {i : Instr} (hend : CommandEnd i s t) (h : BufferInv s) : BufferInv t := by
  cases hend with
  | failedTo e _ => exact bufferInv_congr (h.setBuf _ fitsBuf_nil) rfl rfl
  | wrote _ hfits => exact bufferInv_congr (h.setBuf _ (hfits h.bufs)) rfl rfl
  | zeroize => exact bufferInv_congr bufferInv_reset rfl rfl
  | hashFinal _ => exact bufferInv_congr (h.setBuf _ (fitsBuf_hashFinish _)) rfl rfl
  | pbkdf2Init hp =>
    obtain ⟨hcount, hlength, hfits⟩ := pbkdf2Params_eq_ok hp
    exact bufferInv_congr (h.setPbk (engineOk_pbkStart _ _ _ hcount hlength hfits)) rfl rfl
  | pbkdf2Step he => exact bufferInv_congr (h.setPbk (he ▸ engineOk_pbkSteps h.engine)) rfl rfl
  | pbkdf2Read _ =>
    have hresult : fitsBuf (slice s.pbk.out 0 s.pbk.length).length = true :=
      fitsBuf_mono (by rw [slice_length]; omega) h.engine.fits
    exact bufferInv_congr ((h.setBuf _ hresult).setPbk engineOk_reset) rfl rfl
  | rngWords hfits _ _ hr =>
    exact bufferInv_congr (h.setBuf _ (fitsBuf_mono (hr ▸ generate_length_le _ _) hfits)) rfl rfl
  | envParse hr => exact bufferInv_congr (h.setEnvRecord (envParse_fits hr)) rfl rfl
  | _ => exact bufferInv_congr h rfl rfl

end

/-- Settles O16, by the kind of the step. -/
theorem stepKeepsBuffers : Obligations.StepKeepsBuffers := by
  intro s t h hstep
  cases stepped_of_step hstep with
  | read _ =>
    rw [regReadEffect_eq]
    exact bufferInv_congr h rfl rfl
  | write _ _ =>
    refine BufferInv.regWrite ?_ _ _
    exact bufferInv_congr h rfl rfl
  | reset _ => exact bufferInv_congr bufferInv_reset rfl rfl
  | command _ _ _ hexec => exact (commandEnd_of_exec hexec).bufferInv (bufferInv_congr h rfl rfl)
  | _ => exact bufferInv_congr h rfl rfl

end Sys2Proof.Machine
end

section
/-! The generator between commands (10_state.md R38; 46_prng.md R325, R326, R331, R334, R337). -/

namespace Sys2Proof.Machine

/-! The pools and the entropy they hold -/

/-- The entropy the pools hold together (R38). -/
def entropySum (l : List Pool) : Nat := (l.map fun x => x.entropy.toNat).sum

@[simp] theorem entropySum_nil : entropySum [] = 0 := rfl

@[simp] theorem entropySum_cons (x : Pool) (l : List Pool) :
    entropySum (x :: l) = x.entropy.toNat + entropySum l := by simp [entropySum]

@[simp] theorem entropySum_append (l m : List Pool) : entropySum (l ++ m) = entropySum l + entropySum m := by
  simp [entropySum]

@[simp] theorem entropySum_fresh : entropySum [Pool.fresh] = 0 := rfl

/-- What replacing a pool does to the sum. -/
theorem entropySum_set {l : List Pool} {r : Nat} {y : Pool} (h : l[r]? = some y) (x : Pool) :
    entropySum (l.set r x) + y.entropy.toNat = entropySum l + x.entropy.toNat := by
  induction l generalizing r with
  | nil => cases h
  | cons z l ih =>
    cases r with
    | zero =>
      obtain rfl : z = y := Option.some.inj h
      simp only [List.set_cons_zero, entropySum_cons]
      omega
    | succ r =>
      have := ih (r := r) h
      simp only [List.set_cons_succ, entropySum_cons]
      omega

theorem setPool_pools (p : Prng) (r : Nat) (x : Pool) : (p.setPool r x).pools = p.pools.set r x := by
  cases r <;> rfl

theorem npools_eq (p : Prng) : p.npools = p.pools.length := rfl

theorem entropy_le_entropySum {l : List Pool} {y : Pool} (h : y ∈ l) : y.entropy.toNat ≤ entropySum l :=
  List.single_le_sum (fun _ _ => Nat.zero_le _) _ (List.mem_map_of_mem h)

theorem toNat_add_ofNat {a : Word} {n : Nat} (h : a.toNat + n < 2 ^ 32) :
    (a + BitVec.ofNat 32 n).toNat = a.toNat + n := by
  rw [BitVec.toNat_add, BitVec.toNat_ofNat]
  omega

theorem toNat_sub_ofNat {a : Word} {n : Nat} (h : n ≤ a.toNat) : (a - BitVec.ofNat 32 n).toNat = a.toNat - n := by
  have ha := a.isLt
  rw [BitVec.toNat_sub, BitVec.toNat_ofNat]
  omega

/-! Adding entropy (R326) -/

/-- What an accepted event needs and leaves: the source's pool, its hash updated, no sum past a word. -/
theorem addEntropy_eq_done {p q : Prng} {now : BitVec 64} {kind n est : Nat} {body : Bits} {tag : TagIx}
    (h : addEntropy p now kind body n est tag = .done q) :
    ∃ (pool : Pool) (ctx : ShaState 32), p.poolStrength.toNat + est < 2 ^ 32 ∧
      p.pools[p.robin.get tag]? = some pool ∧
      shaUpdate sha256P pool.ctx (entropyHeader p now kind n est tag ++ body) = .ok ctx ∧
      q = { p.setPool (p.robin.get tag) { ctx := ctx, entropy := pool.entropy + BitVec.ofNat 32 est } with
            robin := p.robin.set tag.val ((p.robin.get tag + 1) % p.npools) tag.isLt
            eventId := p.eventId + 1
            poolStrength := p.poolStrength + BitVec.ofNat 32 est } := by
  unfold addEntropy at h
  split at h
  next => cases h
  next hsmall =>
    dsimp only at h
    split at h
    next => cases h
    next pool hpool =>
      split at h
      next => cases h
      next ctx hctx =>
        cases h
        exact ⟨pool, ctx, Nat.lt_of_not_le hsmall, hpool, hctx, rfl⟩

/-- Replacing one pool and moving one round-robin index keeps the generator sound, when the sum follows. -/
theorem generatorInv_feed {p : Prng} {tag : TagIx} {pool x : Pool} {event strength : Word} (h : GeneratorInv p)
    (hpool : p.pools[p.robin.get tag]? = some pool) (hctx : ShaOk sha256P x.ctx)
    (hsum : strength.toNat + pool.entropy.toNat = p.poolStrength.toNat + x.entropy.toNat) :
    GeneratorInv
      { p.setPool (p.robin.get tag) x with
        robin := p.robin.set tag.val ((p.robin.get tag + 1) % p.npools) tag.isLt
        eventId := event, poolStrength := strength } := by
  have hpools := setPool_pools p (p.robin.get tag) x
  have hcount : (p.setPool (p.robin.get tag) x).npools = p.npools := by
    rw [npools_eq, hpools, List.length_set, npools_eq]
  have hkeep : (p.setPool (p.robin.get tag) x).strength = p.strength ∧
      (p.setPool (p.robin.get tag) x).cipher = p.cipher ∧ (p.setPool (p.robin.get tag) x).key = p.key := by
    unfold Prng.setPool
    split <;> exact ⟨rfl, rfl, rfl⟩
  obtain ⟨hstrength, hcipher, hkey⟩ := hkeep
  exact
    { pools := hcount.trans_le h.pools
      robin := fun j => by
        have hrobin : (p.robin.set tag.val ((p.robin.get tag + 1) % p.npools) tag.isLt).get j < p.npools := by
          rw [Vector.get_eq_getElem, Vector.getElem_set]
          split
          · exact Nat.mod_lt _ (Nat.succ_pos _)
          · exact h.robin j
        exact hrobin.trans_eq hcount.symm
      sum := by
        have hset := entropySum_set hpool x
        have hold : p.poolStrength.toNat = entropySum p.pools := h.sum
        have hnew : entropySum (p.setPool (p.robin.get tag) x).pools = strength.toNat := by
          rw [hpools]
          omega
        exact hnew.symm
      contexts := fun y hy => by
        have hy' : y ∈ p.pools.set (p.robin.get tag) x := hpools ▸ hy
        obtain hmem | rfl := List.mem_or_eq_of_mem_set hy'
        · exact h.contexts y hmem
        · exact hctx
      seeded := fun hpos => hcipher ▸ h.seeded (hstrength ▸ hpos)
      cipher := fun c hc => (h.cipher c (hcipher ▸ hc)).trans (congrArg keyCipher hkey.symm) }

theorem generatorInv_addEntropy {p q : Prng} {now : BitVec 64} {kind n est : Nat} {body : Bits} {tag : TagIx}
    (h : GeneratorInv p) (hq : addEntropy p now kind body n est tag = .done q) : GeneratorInv q := by
  obtain ⟨pool, ctx, hsmall, hpool, hctx, rfl⟩ := addEntropy_eq_done hq
  have hmem : pool ∈ p.pools := List.mem_of_getElem? hpool
  have hle : pool.entropy.toNat ≤ p.poolStrength.toNat := (entropy_le_entropySum hmem).trans_eq h.sum.symm
  refine generatorInv_feed h hpool (shaOk_of_shaUpdate (h.contexts pool hmem) hctx) ?_
  rw [toNat_add_ofNat hsmall, toNat_add_ofNat (by omega)]
  omega

/-! A reseed (R334) -/

theorem takePools_cons (full : Bool) (count : Word) (i : Nat) (x : Pool) (xs : List Pool) :
    takePools full count i (x :: xs) =
      let rest := if full || !count.getLsbD i then takePools full count (i + 1) xs else ⟨[], 0, xs⟩
      ⟨shaFinish sha256P x.ctx ++ rest.digests, x.entropy.toNat + rest.entropy, Pool.fresh :: rest.pools⟩ := rfl

/-- A reseed keeps the number of pools, moves their entropy out, and leaves their contexts sound. -/
theorem takePools_spec (full : Bool) (count : Word) {l : List Pool} (h : ∀ x ∈ l, ShaOk sha256P x.ctx) : ∀ i,
    (takePools full count i l).pools.length = l.length ∧
    (takePools full count i l).entropy + entropySum (takePools full count i l).pools = entropySum l ∧
    ∀ x ∈ (takePools full count i l).pools, ShaOk sha256P x.ctx := by
  induction l with
  | nil => exact fun _ => ⟨rfl, rfl, nofun⟩
  | cons x xs ih =>
    intro i
    obtain ⟨-, hxs⟩ := List.forall_mem_cons.mp h
    have hfresh : ShaOk sha256P Pool.fresh.ctx := shaOk_fresh sha256P
    have hzero : Pool.fresh.entropy.toNat = 0 := rfl
    rw [takePools_cons]
    dsimp only
    split
    · obtain ⟨hlen, hsum, hok⟩ := ih hxs (i + 1)
      refine ⟨congrArg (· + 1) hlen, ?_, List.forall_mem_cons.mpr ⟨hfresh, hok⟩⟩
      rw [entropySum_cons, entropySum_cons, hzero]
      omega
    · refine ⟨rfl, ?_, List.forall_mem_cons.mpr ⟨hfresh, hxs⟩⟩
      rw [entropySum_cons, entropySum_cons, hzero, Nat.add_zero, Nat.zero_add]

/-- The pools after a reseed: those it took or left, and one more when one is due. -/
theorem reseed_pools (full : Bool) (now : BitVec 64) (noise : Bits) (p : Prng) :
    (reseed full now noise p).pools =
      if p.npools < rngMaxPools ∧ 2 ^ p.npools ≤ p.reseedCount.toNat then
        (takePools full p.reseedCount 0 p.pools).pools ++ [Pool.fresh]
      else (takePools full p.reseedCount 0 p.pools).pools := by
  rw [Prng.pools, reseed, show p.pools = p.pool0 :: p.more from rfl, takePools_cons]
  dsimp only [List.headD_cons, List.tail_cons]
  split <;> rfl

theorem generatorInv_reseed {p : Prng} (h : GeneratorInv p) (full : Bool) (now : BitVec 64) (noise : Bits) :
    GeneratorInv (reseed full now noise p) := by
  obtain ⟨hlen, hsum, hok⟩ := takePools_spec full p.reseedCount h.contexts 0
  have hpools := reseed_pools full now noise p
  have hbound := h.pools
  have hstrength : (reseed full now noise p).poolStrength.toNat =
      entropySum (takePools full p.reseedCount 0 p.pools).pools := by
    have hold : p.poolStrength.toNat = entropySum p.pools := h.sum
    have hsub := toNat_sub_ofNat (a := p.poolStrength) (n := (takePools full p.reseedCount 0 p.pools).entropy) (by omega)
    rw [reseed, hsub]
    omega
  have hgrow : p.npools ≤ (reseed full now noise p).npools ∧ (reseed full now noise p).npools ≤ rngMaxPools ∧
      entropySum (reseed full now noise p).pools = entropySum (takePools full p.reseedCount 0 p.pools).pools ∧
      ∀ x ∈ (reseed full now noise p).pools, ShaOk sha256P x.ctx := by
    rw [npools_eq (reseed full now noise p), hpools]
    rw [← npools_eq] at hlen
    split
    next hdue =>
      refine ⟨?_, ?_, ?_, ?_⟩
      · rw [List.length_append, hlen]
        exact Nat.le_add_right _ _
      · rw [List.length_append, hlen]
        exact hdue.1
      · rw [entropySum_append, entropySum_fresh, Nat.add_zero]
      · intro x hx
        obtain hx | hx := List.mem_append.mp hx
        · exact hok x hx
        · obtain rfl := List.mem_singleton.mp hx
          exact shaOk_fresh sha256P
    next => exact ⟨hlen.ge, hlen.trans_le hbound, rfl, hok⟩
  obtain ⟨hmore, hmax, hkeep, hcontexts⟩ := hgrow
  exact
    { pools := hmax
      robin := fun tag => (h.robin tag).trans_le hmore
      sum := hstrength.trans hkeep.symm
      contexts := hcontexts
      seeded := fun _ => nofun
      cipher := fun c hc => (Option.some.inj hc).symm }

theorem generatorInv_preparedPrng {p : Prng} (h : GeneratorInv p) (now : BitVec 64) (noise : Bits) (t : Nat) :
    GeneratorInv (preparedPrng p now noise t) := by
  unfold preparedPrng
  split
  · exact generatorInv_reseed h _ now noise
  · exact h

/-! Generation (R332, R337) -/

/-- Generation ends with a rekey, so the cipher it leaves is that of the key it leaves. -/
theorem generate_cipher (n : Nat) (g : Gen) : (generate n g).2.cipher = keyCipher (generate n g).2.key := rfl

theorem generatorInv_withGen {p : Prng} (h : GeneratorInv p) {g : Gen} (hg : g.cipher = keyCipher g.key) :
    GeneratorInv (p.withGen g) :=
  { h with
    seeded := fun _ => nofun
    cipher := fun _ hc => (Option.some.inj hc).symm.trans hg }

/-! Commands and steps (O17) -/

theorem generatorInv_reset : GeneratorInv Prng.reset where
  pools := by decide
  robin := by decide
  sum := rfl
  contexts x hx := by
    obtain rfl := List.mem_singleton.mp hx
    exact shaOk_fresh sha256P
  seeded h := absurd h (by decide)
  cipher _ hc := by cases hc

theorem CommandEnd.generatorInv {i : Instr} {s t : State} (hend : CommandEnd i s t) (h : GeneratorInv s.rng) :
    GeneratorInv t.rng := by
  cases hend with
  | entropy _ hp => exact generatorInv_addEntropy h hp
  | rngWords _ hp _ hr =>
    exact generatorInv_withGen (hp ▸ generatorInv_preparedPrng h _ _ _) (hr ▸ generate_cipher _ _)
  | _ => exact h

/-- Settles O17, by the kind of the step: only reset and commands reach the generator. -/
theorem stepKeepsGenerator : Obligations.StepKeepsGenerator := by
  intro s t h hstep
  cases stepped_of_step hstep with
  | read _ =>
    rw [regReadEffect_eq]
    exact h
  | @write addr size v rest _ _ =>
    obtain ⟨-, -, -, hrng⟩ := regWrite_secrets { s with hostIn := rest } v (hostReg addr size)
    rw [hrng]
    exact h
  | reset _ => exact generatorInv_reset
  | command _ _ _ hexec => exact (commandEnd_of_exec hexec).generatorInv h
  | _ => exact h

end Sys2Proof.Machine
end

section
/-! The buffer port's writes (20_memory.md R73 to R75), and the accesses that do nothing (R71, R72). -/

namespace Sys2Proof.Machine

/-! Writes to the buffer port (O8) -/

/-- Every bit of the buffer after a `BDATA` write: those of word `p` are the bits of `v`, of a partial word its high
bits, and the others stay (R75). -/
theorem getElem?_bufWithWord {x : Bits} {p k : Nat} (v : Word) (hp : p < wordCount x) (hk : k < x.length) :
    (bufWithWord x p v)[k]? = if 32 * p ≤ k ∧ k < 32 * p + 32 then (bvToBits v)[k - 32 * p]? else x[k]? := by
  simp only [wordCount, ceilDiv] at hp
  have hbefore : (slice x 0 (32 * p)).length = 32 * p := by
    rw [slice_length]
    omega
  have hword : (slice (bvToBits v) 0 (min 32 (x.length - 32 * p))).length = min 32 (x.length - 32 * p) := by
    rw [slice_length, bvToBits_length]
    omega
  rw [bufWithWord, List.append_assoc]
  rcases Nat.lt_or_ge k (32 * p) with hlow | hlow
  · rw [if_neg (by omega), List.getElem?_append_left (hlow.trans_eq hbefore.symm), getElem?_slice, Nat.zero_add,
      if_pos hlow]
  rw [List.getElem?_append_right (hbefore.trans_le hlow), hbefore]
  rcases Nat.lt_or_ge k (32 * p + 32) with hhigh | hhigh
  · have hin : k - 32 * p < min 32 (x.length - 32 * p) := by omega
    rw [if_pos ⟨hlow, hhigh⟩, List.getElem?_append_left (hin.trans_eq hword.symm), getElem?_slice, Nat.zero_add,
      if_pos hin]
  · have hindex : 32 * p + min 32 (x.length - 32 * p) + (k - 32 * p - min 32 (x.length - 32 * p)) = k := by omega
    rw [if_neg (by omega), List.getElem?_append_right (by omega), hword, getElem?_slice, hindex, if_pos hk]

/-- Settles O8: each write by the register its address names; the bits of the buffer by `getElem?_bufWithWord`. -/
theorem portWrites : Obligations.PortWrites := by
  intro s v rest
  refine ⟨fun h => step_write (r := .bsel) h rfl (by decide), fun h => ?blen,
    fun h => step_write (r := .bptr) h rfl (by decide), fun h => ?bdata⟩
  case blen =>
    rw [step_write (r := .blen) h rfl (by decide), regWrite_blen]
    split <;> rfl
  case bdata =>
    split
    next hp =>
      have hlen := bufWithWord_length (s.bufAt s.bsel) s.bptr.toNat v
      exact ⟨bufWithWord (s.bufAt s.bsel) s.bptr.toNat v, step_write_bdata h rfl rfl rfl hp, hlen,
        fun k hk => getElem?_bufWithWord v hp (hk.trans_eq hlen)⟩
    next hp =>
      exact (step_write (r := .bdata) h rfl (by decide)).trans (congrArg Host.Outcome.next (if_neg hp))

/-! Accesses without effect (O7) -/

/-- The word indices of the map that name no register (R70, R72). -/
theorem regAtIndex_eq_reserved_iff (w : Nat) :
    regAtIndex w = .reserved ↔
      w = 0x07 ∨ w = 0x17 ∨ w = 0x1E ∨ w = 0x1F ∨ (0x22 ≤ w ∧ w ≤ 0x2F) ∨ 0x40 ≤ w := by
  by_cases h : w < 0x40
  · exact (by decide : ∀ w < 0x40, regAtIndex w = .reserved ↔
      w = 0x07 ∨ w = 0x17 ∨ w = 0x1E ∨ w = 0x1F ∨ (0x22 ≤ w ∧ w ≤ 0x2F) ∨ 0x40 ≤ w) w h
  · simp only [regAtIndex_of_le (Nat.le_of_not_lt h), true_iff]
    omega

/-- The accesses that reach no register: the narrow, the misaligned and the reserved ones (R71, R72). -/
theorem hostReg_eq_reserved_iff (a : BitVec 12) (size : Nat) :
    hostReg a size = .reserved ↔
      size ≠ 4 ∨ a.toNat % 4 ≠ 0 ∨ a.toNat = 0x01C ∨ a.toNat = 0x05C ∨ a.toNat = 0x078 ∨ a.toNat = 0x07C ∨
        (0x088 ≤ a.toNat ∧ a.toNat ≤ 0x0BC) ∨ 0x100 ≤ a.toNat := by
  rw [hostReg]
  split_ifs with h
  · rw [regAtIndex_eq_reserved_iff]
    omega
  · simp only [true_iff]
    omega

theorem step_read_reserved {s : State} {a : BitVec 12} {size : Nat} {rest : List HostAction}
    (h : s.hostIn = .read a size :: rest) (hr : hostReg a size = .reserved) :
    step s = .next { s with hostIn := rest, hostOut := 0 :: s.hostOut } := by
  rw [step_read h, hr]
  rfl

theorem step_write_reserved {s : State} {a : BitVec 12} {size : Nat} {v : Word} {rest : List HostAction}
    (h : s.hostIn = .write a size v :: rest) (hr : hostReg a size = .reserved) :
    step s = .next { s with hostIn := rest } := by
  have hcmd : hostReg a size ≠ .cmd := by simp [hr]
  rw [step_of_settled (takeAction_write h hcmd), hr]
  rfl

/-- The registers that ignore a write (R70, R72): `STATUS`, `ERR`, `CMDCNT`, `ID` and those of the PBKDF2 engine. -/
def readOnlyRegs : List HostReg := [.status, .err, .cmdCnt, .id, .pbkState, .pbkBlk, .pbkIter]

theorem hostReg_mem_readOnlyRegs :
    ∀ a ∈ ([0x004, 0x008, 0x010, 0x018, 0x050, 0x054, 0x058] : List (BitVec 12)), hostReg a 4 ∈ readOnlyRegs := by
  decide

theorem regWrite_of_mem_readOnlyRegs (s : State) (v : Word) : ∀ r ∈ readOnlyRegs, regWrite s v r = s := by
  simp only [readOnlyRegs, List.forall_mem_cons, List.not_mem_nil, false_imp_iff, implies_true, and_true]
  exact ⟨rfl, rfl, rfl, rfl, rfl, rfl, rfl⟩

/-- Settles O7: an access that reaches no register, and a write to a register that ignores it. -/
theorem unreachableAccess : Obligations.UnreachableAccess := by
  refine ⟨fun s a size v rest hnone => ?none, fun s a v rest ha h => ?readOnly⟩
  case none =>
    have hr := (hostReg_eq_reserved_iff a size).mpr hnone
    exact ⟨fun h => step_read_reserved h hr, fun h => step_write_reserved h hr⟩
  case readOnly =>
    have hr := hostReg_mem_readOnlyRegs a ha
    have hcmd : hostReg a 4 ≠ .cmd := ne_of_mem_of_not_mem hr (by decide)
    rw [step_write h rfl hcmd, regWrite_of_mem_readOnlyRegs _ v _ hr]

end Sys2Proof.Machine
end

section
/-! The command encoding (30_encoding.md R100 to R106, R112): the fields of a word, one operand in its field, the opcode
table row by row, and what a write to `CMD` makes of a word. -/

namespace Sys2Proof

/-! A word and its seven fields (R101) -/

@[simp] theorem Fields.toWord_ofWord (cw : Word) : (Fields.ofWord cw).toWord = cw := by
  simp only [Fields.ofWord, Fields.toWord, BitVec.extractLsb'_append_extractLsb'_eq_extractLsb',
    BitVec.extractLsb'_eq_self, -Nat.reduceAdd]

@[simp] theorem Fields.ofWord_toWord (x : Fields) : Fields.ofWord x.toWord = x := by
  simp (disch := decide) only [Fields.ofWord, Fields.toWord, BitVec.extractLsb'_append_eq_of_le,
    BitVec.extractLsb'_append_eq_right, BitVec.extractLsb'_eq_self, Nat.reduceSub, -Nat.reduceAdd]

theorem Fields.toWord_and (x y : Fields) :
    x.toWord &&& y.toWord =
      Fields.toWord
        ⟨x.op &&& y.op, x.a &&& y.a, x.b &&& y.b, x.c &&& y.c, x.d &&& y.d, x.e &&& y.e, x.f &&& y.f⟩ := by
  simp only [Fields.toWord, ← BitVec.and_append, -Nat.reduceAdd]

/-! What a field may hold (R103, R106) -/

theorem FieldKind.admits_iff {k : FieldKind} {x : BitVec 4} : k.admits x = true ↔ x &&& k.mask = 0 := beq_iff_eq

@[simp] theorem FieldKind.admits_zero_iff : ∀ x : BitVec 4, FieldKind.zero.admits x = true ↔ x = 0 := by decide

@[simp] theorem FieldKind.admits_buf : ∀ x : BitVec 4, FieldKind.buf.admits x = true := by decide

@[simp] theorem FieldKind.admits_imm4 : ∀ x : BitVec 4, FieldKind.imm4.admits x = true := by decide

/-! A field its kind admits, read as an operand and written back: nothing is lost -/

@[simp] theorem nibble_bufOf : ∀ x : BitVec 4, nibble (bufOf x) = x := by decide

@[simp] theorem nibble_scalOf : ∀ {x : BitVec 4}, FieldKind.scal.admits x = true → nibble (scalOf x) = x := by decide

@[simp] theorem nibble_slotOf : ∀ {x : BitVec 4}, FieldKind.slot.admits x = true → nibble (slotOf x) = x := by decide

@[simp] theorem algNibble_algOf : ∀ {x : BitVec 4}, FieldKind.flag1.admits x = true → algNibble (algOf x) = x := by
  decide

@[simp] theorem flagNibble_of_flag1 : ∀ {x : BitVec 4}, FieldKind.flag1.admits x = true →
    flagNibble x[0] false = x := by
  decide

@[simp] theorem flagNibble_of_flag2 : ∀ {x : BitVec 4}, FieldKind.flag2.admits x = true → flagNibble x[0] x[1] = x := by
  decide

@[simp] theorem fitsNibble_iff (n : Nat) : fitsNibble n = true ↔ n < 16 := decide_eq_true_iff

@[simp] theorem toNat_lt_sixteen (x : BitVec 4) : x.toNat < 16 := x.isLt

/-! An operand, written to its field and read back: the kind admits the field, and the operand is the same -/

@[simp] theorem bufOf_nibble : ∀ a : Fin 16, bufOf (nibble a) = a := by decide

@[simp] theorem admits_scal_nibble : ∀ a : ScalIx, FieldKind.scal.admits (nibble a) = true := by decide

@[simp] theorem scalOf_nibble : ∀ a : ScalIx, scalOf (nibble a) = a := by decide

@[simp] theorem admits_slot_nibble : ∀ a : Fin 4, FieldKind.slot.admits (nibble a) = true := by decide

@[simp] theorem slotOf_nibble : ∀ a : Fin 4, slotOf (nibble a) = a := by decide

@[simp] theorem admits_flag1_algNibble (alg : HashAlg) : FieldKind.flag1.admits (algNibble alg) = true := by
  cases alg <;> decide

@[simp] theorem algOf_algNibble (alg : HashAlg) : algOf (algNibble alg) = alg := by cases alg <;> decide

@[simp] theorem admits_flag1_flagNibble : ∀ x : Bool, FieldKind.flag1.admits (flagNibble x false) = true := by decide

@[simp] theorem admits_flag2_flagNibble : ∀ x y : Bool, FieldKind.flag2.admits (flagNibble x y) = true := by decide

@[simp] theorem flagNibble_getElem_zero : ∀ x y : Bool, (flagNibble x y)[0] = x := by decide

@[simp] theorem flagNibble_getElem_one : ∀ x y : Bool, (flagNibble x y)[1] = y := by decide

/-! The opcode table (R105) and its masks (R106) -/

theorem Row.admits_iff {r : Row} {x : Fields} :
    r.admits x = true ↔
      r.a.admits x.a = true ∧ r.b.admits x.b = true ∧ r.c.admits x.c = true ∧ r.d.admits x.d = true ∧
        r.e.admits x.e = true ∧ r.f.admits x.f = true := by
  simp only [Row.admits, Bool.and_eq_true, and_assoc]

theorem Row.ofWord_pattern (r : Row) : Fields.ofWord r.pattern = ⟨r.op, 0, 0, 0, 0, 0, 0⟩ := by
  simp (disch := decide) only [Row.pattern, Fields.ofWord, BitVec.extractLsb'_append_eq_left,
    BitVec.extractLsb'_append_eq_of_add_le, BitVec.extractLsb'_zero, BitVec.ofNat_eq_ofNat]

theorem Row.mask_eq_toWord (r : Row) :
    r.mask = Fields.toWord ⟨0xFF, r.a.mask, r.b.mask, r.c.mask, r.d.mask, r.e.mask, r.f.mask⟩ := rfl

/-- A word whose opcode and fields are those of the row is matched by the row's mask (R106). -/
theorem Row.and_mask_eq_pattern {r : Row} {cw : Word} (hop : r.op = (Fields.ofWord cw).op)
    (hadm : r.admits (Fields.ofWord cw) = true) : cw &&& r.mask = r.pattern := by
  obtain ⟨ha, hb, hc, hd, he, hf⟩ := Row.admits_iff.mp hadm
  rw [FieldKind.admits_iff] at ha hb hc hd he hf
  have hff : r.op &&& 0xFF = r.op := BitVec.and_allOnes
  calc cw &&& r.mask
      = (Fields.ofWord cw).toWord &&& r.mask := by rw [Fields.toWord_ofWord]
    _ = Fields.toWord ⟨r.op, 0, 0, 0, 0, 0, 0⟩ := by
        rw [Row.mask_eq_toWord, Fields.toWord_and, ← hop, hff, ha, hb, hc, hd, he, hf]
    _ = r.pattern := by rw [← Row.ofWord_pattern, Fields.toWord_ofWord]

/-- What the row builds from fields it admits is well-formed, and the encoder writes back the very fields. -/
def Row.Faithful (r : Row) : Prop :=
  ∀ x : Fields, r.op = x.op → r.admits x = true → wellFormed (r.build x) = true ∧ encodeFields (r.build x) = x

/-- The rows differ in the kinds of their fields alone, and for each kind a lemma above reads the field and writes it
back. -/
theorem rows_faithful : ∀ r ∈ rows, r.Faithful := by
  rintro r hr ⟨op, a, b, c, d, e, f⟩ hop hadm
  obtain ⟨ha, hb, hc, hd, he, hf⟩ := Row.admits_iff.mp hadm
  clear hadm
  fin_cases hr <;> simp_all [wellFormed, encodeFields]

/-! The decoder (R112) -/

theorem decodeFields_of_find? {x : Fields} {r : Row} {i : Instr} (hfind : rows.find? (fun r => r.op == x.op) = some r)
    (hadm : r.admits x = true) (hbuild : r.build x = i) : decodeFields x = .ok i := by
  rw [decodeFields, hfind, ← hbuild]
  exact if_pos hadm

theorem exists_row_of_decodeFields {x : Fields} {i : Instr} (h : decodeFields x = .ok i) :
    ∃ r ∈ rows, r.op = x.op ∧ r.admits x = true ∧ r.build x = i := by
  unfold decodeFields at h
  split at h
  next => cases h
  next r hfind =>
    split at h
    next hadm =>
      exact ⟨r, List.mem_of_find?_eq_some hfind, beq_iff_eq.mp (List.find?_some hfind :), hadm, Except.ok.inj h⟩
    next => cases h

/-- Command by command: the table finds the row of its opcode, the row admits its fields, and builds it from them. -/
theorem decodeFields_encodeFields {i : Instr} (h : wellFormed i = true) : decodeFields (encodeFields i) = .ok i := by
  cases i <;>
    exact decodeFields_of_find? rfl (by simp [Row.admits_iff, encodeFields]) (by simp_all [encodeFields, wellFormed])

theorem encodeFields_of_decode {cw : Word} {i : Instr} (h : decode cw = .ok i) :
    wellFormed i = true ∧ encodeFields i = Fields.ofWord cw := by
  obtain ⟨r, hr, hop, hadm, rfl⟩ := exists_row_of_decodeFields h
  exact rows_faithful r hr _ hop hadm

theorem decode_eq_error_of_no_row {cw : Word} (h : ∀ r ∈ rows, cw &&& r.mask ≠ r.pattern) :
    ∃ e, decode cw = .error e := by
  cases hd : decode cw with
  | error e => exact ⟨e, rfl⟩
  | ok i =>
    obtain ⟨r, hr, hop, hadm, -⟩ := exists_row_of_decodeFields hd
    exact absurd (Row.and_mask_eq_pattern hop hadm) (h r hr)

end Sys2Proof

namespace Sys2Proof.Machine

/-! The encoding (O1, O2, O3) -/

/-- Settles O2: the row of the command's opcode admits the command's fields and builds the command from them. -/
theorem decodeEncode : Obligations.DecodeEncode := by
  intro i h
  rw [decode, encode, Fields.ofWord_toWord]
  exact decodeFields_encodeFields h

/-- Settles O3, by `rows_faithful` for the row that matched. -/
theorem encodeDecode : Obligations.EncodeDecode := by
  intro cw i h
  obtain ⟨hwf, hfields⟩ := encodeFields_of_decode h
  exact ⟨hwf, by rw [encode, hfields, Fields.toWord_ofWord]⟩

/-- Settles O1: the decoder is run on each word. -/
theorem decodeSampleWords : Obligations.DecodeSampleWords := by
  unfold Obligations.DecodeSampleWords
  decide

/-! A write to `CMD` (O4, O5) -/

theorem step_command {s : State} {cw : Word} {rest : List HostAction} (h : s.hostIn = .write 0x000 4 cw :: rest) :
    step s = runWord cw { s with hostIn := rest, cmd := cw } := by
  rw [step, takeAction_command h]

theorem runWord_of_error {cw : Word} {e : DecodeError} (h : decode cw = .error e) (s : State) :
    runWord cw s = .next (illegalCommand (opByte cw) s) := by
  rw [runWord, h]

theorem runWord_of_ok {cw : Word} {i : Instr} (h : decode cw = .ok i) (s : State) : runWord cw s = exec i s := by
  rw [runWord, h]

/-- Settles O4: a word no row matches does not decode, and error entry is `illegalCommand`. -/
theorem illegalWord : Obligations.IllegalWord := by
  intro s rest cw hin hrows
  obtain ⟨e, hd⟩ := decode_eq_error_of_no_row hrows
  rw [step_command hin, runWord_of_error hd]
  rfl

/-- Settles O5: the opcode is the field `op` of the word that decoded. -/
theorem stepRunsDecodedCommand : Obligations.StepRunsDecodedCommand := by
  intro s rest cw i hin hd
  obtain ⟨-, hfields⟩ := encodeFields_of_decode hd
  exact ⟨(step_command hin).trans (runWord_of_ok hd _), congrArg Fields.op hfields⟩

/-! The ends of a command with one result (O22) -/

section

variable (s : State) (op : Byte)

@[simp] theorem bufAt_wrote (a b : BufIx) (x : Bits) : (s.wrote op a x).bufAt b = if a = b then x else s.bufAt b :=
  bufAt_setBuf s a b x

@[simp] theorem scalAt_wroteScal (a j : ScalIx) (v : Word) :
    (s.wroteScal op a v).scalAt j = if a = j then v else s.scalAt j :=
  scalAt_setScal s a j v

@[simp] theorem bufAt_failedTo (a b : BufIx) (e : Err) :
    (s.failedTo op a e).bufAt b = if a = b then [] else s.bufAt b :=
  bufAt_setBuf s a b []

end

/-- Settles O22: what the written register then holds, by the read-after-write rules; all other fields are literally
those of the three definitions. -/
theorem resultFrame : Obligations.ResultFrame := by
  intro s op e
  refine ⟨fun a x => ⟨?_, fun b hb => ?_, rfl⟩, fun a v => ⟨?_, fun j hj => ?_, rfl⟩,
    fun a => ⟨?_, fun b hb => ?_, rfl⟩⟩
  · rw [bufAt_wrote, if_pos rfl]
  · rw [bufAt_wrote, if_neg hb.symm]
  · rw [scalAt_wroteScal, if_pos rfl]
  · rw [scalAt_wroteScal, if_neg hj.symm]
  · rw [bufAt_failedTo, if_pos rfl]
  · rw [bufAt_failedTo, if_neg hb.symm]

end Sys2Proof.Machine
end

section
/-! Laws of the codecs (40_bitarray_codecs.md R141 to R147): a string as digits, decoding as the inverse of encoding, and
each output character or group by its index. -/

namespace Sys2Proof.Machine

/-! The capacity test, and the decoding of every character of a text -/

theorem capacity_eq_ok {n : Nat} {r : Except Err Bits} {x : Bits} (h : capacity n r = .ok x) : r = .ok x := by
  obtain ⟨-, hcap⟩ | ⟨-, hcap⟩ := capacity_cases (n := n) (r := r)
  · exact hcap ▸ h
  · cases hcap.symm.trans h

theorem decodeAll_eq_none {α β : Type} {f : α → Option β} {l : List α} (h : ∃ c ∈ l, f c = none) :
    decodeAll f l = none := by
  obtain ⟨c, hc, hnone⟩ := h
  induction l with
  | nil => cases hc
  | cons e l ih =>
    rw [decodeAll]
    obtain rfl | hl := List.mem_cons.mp hc
    · rw [hnone]
    · rw [ih hl]
      cases f e <;> rfl

/-- Either every element has a value, and the decoding is the list of the values (`d` stands for no value), or there is
no decoding. -/
theorem decodeAll_cases {α β : Type} (f : α → Option β) (d : β) (l : List α) :
    (l.all (fun c => (f c).isSome) = true ∧ decodeAll f l = some (l.map fun c => (f c).getD d)) ∨
      (¬ l.all (fun c => (f c).isSome) = true ∧ decodeAll f l = none) := by
  induction l with
  | nil => exact .inl ⟨rfl, rfl⟩
  | cons c l ih =>
    rw [decodeAll]
    cases hc : f c with
    | none => exact .inr ⟨by simp [hc], rfl⟩
    | some v =>
      obtain ⟨hall, hl⟩ | ⟨hall, hl⟩ := ih
      · exact .inl ⟨by rw [List.all_cons, hall, hc]; rfl, by rw [hl, List.map_cons, hc]; rfl⟩
      · exact .inr ⟨by rw [List.all_cons, hc]; exact hall, by rw [hl]⟩

/-- Characters written by a function that `f` inverts are read back. -/
theorem decodeAll_map {α β : Type} {f : α → Option β} {g : β → α} {l : List β} (h : ∀ v ∈ l, f (g v) = some v) :
    decodeAll f (l.map g) = some l := by
  induction l with
  | nil => rfl
  | cons v l ih =>
    obtain ⟨hv, hl⟩ := List.forall_mem_cons.mp h
    rw [List.map_cons, decodeAll, hv, ih hl]

/-! A string as digits of `n` bits -/

/-- The digits of `n` bits of a string, first digit first. -/
def digitsOf (n : Nat) (x : Bits) : List Nat := (splitEvery n x).map bitsToNat

theorem digitsOf_length {n : Nat} (hn : 0 < n) (x : Bits) : (digitsOf n x).length = ceilDiv x.length n := by
  rw [digitsOf, List.length_map, splitEvery_length hn]

theorem lt_of_mem_digitsOf {n : Nat} (hn : 0 < n) {x : Bits} (hx : n ∣ x.length) : ∀ v ∈ digitsOf n x, v < 2 ^ n := by
  intro v hv
  obtain ⟨p, hp, rfl⟩ := List.mem_map.mp hv
  exact length_of_mem_splitEvery hn hx p hp ▸ bitsToNat_lt p

theorem flatMap_digitsOf {n : Nat} (hn : 0 < n) {x : Bits} (hx : n ∣ x.length) :
    (digitsOf n x).flatMap (natToBits n) = x := by
  have hpiece : ∀ p ∈ splitEvery n x, natToBits n (bitsToNat p) = p := by
    intro p hp
    obtain rfl := length_of_mem_splitEvery hn hx p hp
    exact natToBits_bitsToNat p
  calc (digitsOf n x).flatMap (natToBits n)
      = ((splitEvery n x).map fun p => natToBits n (bitsToNat p)).flatten := by
        simp [digitsOf, List.flatMap_def, Function.comp_def]
    _ = (splitEvery n x).flatten := by rw [List.map_congr_left hpiece, List.map_id']
    _ = x := flatten_splitEvery hn x

/-- Piece `i` of a string starts at bit `n i`. -/
theorem splitEvery_eq_map_range {n : Nat} (hn : 0 < n) (x : Bits) :
    splitEvery n x = (List.range (ceilDiv x.length n)).map fun i => (x.drop (n * i)).take n := by
  induction x using pieces_induction hn with
  | nil => simp [ceilDiv, Nat.div_eq_of_lt (show n - 1 < n by omega)]
  | piece x hx ih =>
    have hcount : ceilDiv x.length n = ceilDiv (x.drop n).length n + 1 := by
      rw [← splitEvery_length hn, ← splitEvery_length hn, splitEvery_of_ne_nil hn hx, List.length_cons]
    rw [splitEvery_of_ne_nil hn hx, ih, hcount, List.range_succ_eq_map]
    simp [List.drop_drop, Nat.mul_succ, Nat.add_comm]

/-! Hexadecimal text -/

theorem hexVal_hexLower : ∀ v < 2 ^ 4, hexVal (hexLower v) = some v := by decide

/-- Encoding that succeeds had whole digits to encode, and wrote one character for each. -/
theorem hexEncode_eq_ok {x t : Bits} (h : hexEncode x = .ok t) :
    4 ∣ x.length ∧ t = ofBytes ((digitsOf 4 x).map hexLower) := by
  unfold hexEncode at h
  split at h
  next => cases h
  next hdigits =>
    cases capacity_eq_ok h
    exact ⟨by omega, by rw [digitsOf, List.map_map]; rfl⟩

theorem hexDecode_eq_ok {t : Bits} {ds : List Nat} (ht : t.length % 8 = 0)
    (h : decodeAll hexVal (bytesOf t) = some ds) : hexDecode t = .ok (ds.flatMap (natToBits 4)) := by
  rw [hexDecode, if_neg (not_not.mpr ht), h]

theorem hexDecode_eq_error {t : Bits} (ht : t.length % 8 = 0) (h : decodeAll hexVal (bytesOf t) = none) :
    hexDecode t = .error .invalidEncoding := by
  rw [hexDecode, if_neg (not_not.mpr ht), h]

theorem hexDecode_hexEncode {x t : Bits} (h : hexEncode x = .ok t) : hexDecode t = .ok x := by
  obtain ⟨hx, rfl⟩ := hexEncode_eq_ok h
  have hdigits : decodeAll hexVal ((digitsOf 4 x).map hexLower) = some (digitsOf 4 x) :=
    decodeAll_map fun v hv => hexVal_hexLower v (lt_of_mem_digitsOf (by decide) hx v hv)
  rw [hexDecode_eq_ok (by simp) (by rw [bytesOf_ofBytes, hdigits]), flatMap_digitsOf (by decide) hx]

theorem hexDecode_eq_invalidEncoding {t : Bits} (ht : t.length % 8 = 0) (h : ∃ c ∈ bytesOf t, hexVal c = none) :
    hexDecode t = .error .invalidEncoding :=
  hexDecode_eq_error ht (decodeAll_eq_none h)

/-! Base64 text -/

/-- The characters the decoder reads: it drops white space and `=` (R146). -/
def isB64Text (c : Byte) : Bool := !(isSpace c || c == 0x3D)

theorem b64Val_b64Char : ∀ (url : Bool), ∀ v < 2 ^ 6, b64Val url (b64Char url v) = some v := by decide

theorem isB64Text_b64Char : ∀ (url : Bool), ∀ v < 2 ^ 6, isB64Text (b64Char url v) = true := by decide

theorem isB64Text_iff (c : Byte) : isB64Text c = true ↔ isSpace c = false ∧ c ≠ 0x3D := by
  simp [isB64Text]

theorem isB64Text_pad : isB64Text 0x3D = false := by decide

theorem b64DecodeBytes_eq_some {url : Bool} {t : List Byte} {vs : List Nat}
    (h : decodeAll (b64Val url) (t.filter isB64Text) = some vs) :
    b64DecodeBytes url t = some ((vs.flatMap (natToBits 6)).take (8 * (6 * vs.length / 8))) := by
  unfold isB64Text at h
  rw [b64DecodeBytes, h]

theorem b64DecodeBytes_eq_none {url : Bool} {t : List Byte}
    (h : decodeAll (b64Val url) (t.filter isB64Text) = none) : b64DecodeBytes url t = none := by
  unfold isB64Text at h
  rw [b64DecodeBytes, h]

theorem b64Decode_eq_ok {url : Bool} {t x : Bits} (ht : t.length % 8 = 0)
    (h : b64DecodeBytes url (bytesOf t) = some x) : b64Decode url t = .ok x := by
  rw [b64Decode, if_neg (not_not.mpr ht), h]

theorem b64Decode_eq_error {url : Bool} {t : Bits} (ht : t.length % 8 = 0)
    (h : b64DecodeBytes url (bytesOf t) = none) : b64Decode url t = .error .invalidEncoding := by
  rw [b64Decode, if_neg (not_not.mpr ht), h]

/-- Encoding that succeeds had whole bytes to encode. -/
theorem b64Encode_eq_ok {url nopad : Bool} {x t : Bits} (h : b64Encode url nopad x = .ok t) :
    x.length % 8 = 0 ∧ t = ofBytes (b64EncodeBytes url nopad x) := by
  unfold b64Encode at h
  split at h
  next => cases h
  next hbytes =>
    cases capacity_eq_ok h
    exact ⟨not_not.mp hbytes, rfl⟩

/-- A string, zero-padded to the whole base64 digits its characters stand for. -/
def b64Padded (x : Bits) : Bits := padr x (6 * b64Chars x.length)

theorem b64Padded_length (x : Bits) : (b64Padded x).length = 6 * b64Chars x.length := by
  rw [b64Padded, padr_length, b64Chars, ceilDiv]
  omega

theorem dvd_b64Padded_length (x : Bits) : 6 ∣ (b64Padded x).length := ⟨_, b64Padded_length x⟩

/-- The text is the characters of the digits, then the padding. -/
theorem b64EncodeBytes_eq (url nopad : Bool) (x : Bits) :
    b64EncodeBytes url nopad x =
      (digitsOf 6 (b64Padded x)).map (b64Char url) ++ List.replicate (b64Pads nopad (b64Chars x.length)) 0x3D := by
  rw [digitsOf, List.map_map]
  rfl

/-- The decoder drops the padding and no character of a digit. -/
theorem filter_b64EncodeBytes (url nopad : Bool) (x : Bits) :
    (b64EncodeBytes url nopad x).filter isB64Text = (digitsOf 6 (b64Padded x)).map (b64Char url) := by
  have hchars : ∀ c ∈ (digitsOf 6 (b64Padded x)).map (b64Char url), isB64Text c = true := by
    intro c hc
    obtain ⟨v, hv, rfl⟩ := List.mem_map.mp hc
    exact isB64Text_b64Char url v (lt_of_mem_digitsOf (by decide) (dvd_b64Padded_length x) v hv)
  rw [b64EncodeBytes_eq, List.filter_append, List.filter_eq_self.mpr hchars,
    List.filter_replicate_of_neg (Bool.eq_false_iff.mp isB64Text_pad), List.append_nil]

theorem b64DecodeBytes_b64EncodeBytes (url nopad : Bool) {x : Bits} (hx : x.length % 8 = 0) :
    b64DecodeBytes url (b64EncodeBytes url nopad x) = some x := by
  have hdigits : decodeAll (b64Val url) ((b64EncodeBytes url nopad x).filter isB64Text) =
      some (digitsOf 6 (b64Padded x)) := by
    rw [filter_b64EncodeBytes]
    exact decodeAll_map fun v hv =>
      b64Val_b64Char url v (lt_of_mem_digitsOf (by decide) (dvd_b64Padded_length x) v hv)
  have hlen : 8 * (6 * (digitsOf 6 (b64Padded x)).length / 8) = x.length := by
    rw [digitsOf_length (by decide), b64Padded_length, b64Chars, ceilDiv, ceilDiv]
    omega
  rw [b64DecodeBytes_eq_some hdigits, hlen, flatMap_digitsOf (by decide) (dvd_b64Padded_length x), b64Padded, padr,
    List.take_left]

theorem b64Decode_b64Encode {url nopad : Bool} {x t : Bits} (h : b64Encode url nopad x = .ok t) :
    b64Decode url t = .ok x := by
  obtain ⟨hx, rfl⟩ := b64Encode_eq_ok h
  exact b64Decode_eq_ok (by simp) (by rw [bytesOf_ofBytes, b64DecodeBytes_b64EncodeBytes url nopad hx])

theorem b64Decode_eq_invalidEncoding {url : Bool} {t : Bits} (ht : t.length % 8 = 0)
    (h : ∃ c ∈ bytesOf t, isSpace c = false ∧ c ≠ 0x3D ∧ b64Val url c = none) :
    b64Decode url t = .error .invalidEncoding := by
  obtain ⟨c, hc, hspace, hpad, hval⟩ := h
  have htext : c ∈ (bytesOf t).filter isB64Text :=
    List.mem_filter.mpr ⟨hc, (isB64Text_iff c).mpr ⟨hspace, hpad⟩⟩
  exact b64Decode_eq_error ht (b64DecodeBytes_eq_none (decodeAll_eq_none ⟨c, htext, hval⟩))

/-- Settles O40: the characters are the digits of the string, every character is read back as its digit, and the
digits joined are the string, from which base64 drops the bits of its zero padding. -/
theorem codecRoundTrip : Obligations.CodecRoundTrip :=
  ⟨fun _ _ => hexDecode_hexEncode, fun _ _ _ _ => b64Decode_b64Encode, fun _ => hexDecode_eq_invalidEncoding,
    fun _ _ => b64Decode_eq_invalidEncoding⟩

/-! The codecs, character by character (R143 to R147) -/

theorem hexDecode_eq_ite (t : Bits) :
    hexDecode t =
      if t.length % 8 ≠ 0 then .error .invalidParameter
      else if (bytesOf t).all (fun c => (hexVal c).isSome) then
        .ok ((bytesOf t).flatMap fun c => natToBits 4 ((hexVal c).getD 0))
      else .error .invalidEncoding := by
  by_cases ht : t.length % 8 = 0
  · rw [if_neg (not_not.mpr ht)]
    obtain ⟨hall, hdec⟩ | ⟨hall, hdec⟩ := decodeAll_cases hexVal 0 (bytesOf t)
    · rw [if_pos hall, hexDecode_eq_ok ht hdec, List.flatMap_map]
    · rw [if_neg hall, hexDecode_eq_error ht hdec]
  · rw [if_pos ht, hexDecode, if_pos ht]

theorem hexEncode_eq_ite (x : Bits) :
    hexEncode x =
      if x.length % 4 ≠ 0 then .error .invalidParameter
      else if fitsBuf (2 * x.length) then
        .ok (ofBytes ((List.range (x.length / 4)).map fun i => hexLower (bitsToNat ((x.drop (4 * i)).take 4))))
      else .error .bufferOverflow := by
  rw [hexEncode]
  split
  · rfl
  next hdigits =>
    have hcount : ceilDiv x.length 4 = x.length / 4 := by
      rw [ceilDiv]
      omega
    rw [splitEvery_eq_map_range (by decide), hcount, List.map_map]
    rfl

/-- The decoder reads what is neither white space nor `=`, by their codes. -/
theorem isB64Text_eq_not_contains (c : Byte) :
    isB64Text c = !([0x09, 0x0A, 0x0B, 0x0C, 0x0D, 0x20, 0x3D] : List Byte).contains c := by
  revert c
  decide

theorem b64Decode_eq_ite (url : Bool) (t : Bits) :
    b64Decode url t =
      if t.length % 8 ≠ 0 then .error .invalidParameter
      else if ((bytesOf t).filter isB64Text).all (fun c => (b64Val url c).isSome) then
        .ok ((((bytesOf t).filter isB64Text).flatMap fun c => natToBits 6 ((b64Val url c).getD 0)).take
          (8 * (6 * ((bytesOf t).filter isB64Text).length / 8)))
      else .error .invalidEncoding := by
  by_cases ht : t.length % 8 = 0
  · rw [if_neg (not_not.mpr ht)]
    obtain ⟨hall, hdec⟩ | ⟨hall, hdec⟩ := decodeAll_cases (b64Val url) 0 ((bytesOf t).filter isB64Text)
    · rw [if_pos hall, b64Decode_eq_ok ht (b64DecodeBytes_eq_some hdec), List.flatMap_map, List.length_map]
    · rw [if_neg hall, b64Decode_eq_error ht (b64DecodeBytes_eq_none hdec)]
  · rw [if_pos ht, b64Decode, if_pos ht]

/-- Digit `i` of the padded string starts at bit `6 i`; no digit reaches past five zeros more. -/
theorem digitsOf_b64Padded (x : Bits) :
    digitsOf 6 (b64Padded x) =
      (List.range (b64Chars x.length)).map fun i => bitsToNat (((x ++ zeros 5).drop (6 * i)).take 6) := by
  have hcount : ceilDiv (b64Padded x).length 6 = b64Chars x.length := by
    rw [b64Padded_length, ceilDiv]
    omega
  have hpadded : b64Padded x = (x ++ zeros 5).take (6 * b64Chars x.length) := by
    rw [b64Padded, padr, List.take_append, List.take_of_length_le, zeros, zeros, List.take_replicate]
    · congr 2
      rw [b64Chars, ceilDiv]
      omega
    · rw [b64Chars, ceilDiv]
      omega
  have hdigit : ∀ i < b64Chars x.length,
      ((b64Padded x).drop (6 * i)).take 6 = ((x ++ zeros 5).drop (6 * i)).take 6 := by
    intro i hi
    rw [hpadded, List.drop_take, List.take_take, Nat.min_eq_left (by omega)]
  rw [digitsOf, splitEvery_eq_map_range (by decide), hcount, List.map_map]
  exact List.map_congr_left fun i hi => congrArg bitsToNat (hdigit i (List.mem_range.mp hi))

theorem b64Encode_eq_ite (url nopad : Bool) (x : Bits) :
    b64Encode url nopad x =
      if x.length % 8 ≠ 0 then .error .invalidParameter
      else if fitsBuf (b64TextBits nopad x.length) then
        .ok (ofBytes ((List.range (b64Chars x.length)).map (fun i =>
          b64Char url (bitsToNat (((x ++ zeros 5).drop (6 * i)).take 6))) ++
            List.replicate (b64Pads nopad (b64Chars x.length)) 0x3D))
      else .error .bufferOverflow := by
  rw [b64Encode, capacity, b64EncodeBytes_eq, digitsOf_b64Padded, List.map_map]
  rfl

end Sys2Proof.Machine
end

section
/-! The BitArray, codec and system commands (40_bitarray_codecs.md R130 to R147) as equations of the next state. -/

namespace Sys2Proof.Machine

/-! Each command, by the function its result is -/

theorem resultToBuf_ite {c : Prop} [Decidable c] (op : Byte) (a : BufIx) (r r' : Except Err Bits) (s : State) :
    resultToBuf op a (if c then r else r') s = if c then resultToBuf op a r s else resultToBuf op a r' s :=
  apply_ite (resultToBuf op a · s) c r r'

theorem resultToScal_ite {c : Prop} [Decidable c] (op : Byte) (a : ScalIx) (r r' : Except Err Word) (s : State) :
    resultToScal op a (if c then r else r') s = if c then resultToScal op a r s else resultToScal op a r' s :=
  apply_ite (resultToScal op a · s) c r r'

section
variable (s : State)

theorem exec_nop : exec .nop s = .next (s.succeed 0x00) := rfl

theorem exec_zeroize : exec .zeroize s = .next ((zeroized s).succeed 0x0F) := rfl

theorem exec_baLen (a : ScalIx) (b : BufIx) : exec (.baLen a b) s = resultToScal 0x01 a (baLen (s.bufAt b)) s := rfl

theorem exec_baSlice (a b : BufIx) (c d : ScalIx) :
    exec (.baSlice a b c d) s = resultToBuf 0x02 a (baSlice (s.bufAt b) (s.natAt c) (s.natAt d)) s := rfl

theorem exec_baExtract (a : ScalIx) (b : BufIx) (c d : ScalIx) :
    exec (.baExtract a b c d) s = resultToScal 0x03 a (baExtract (s.bufAt b) (s.natAt c) (s.natAt d)) s := rfl

theorem exec_baConcat (a b c : BufIx) :
    exec (.baConcat a b c) s = resultToBuf 0x04 a (baConcat (s.bufAt b) (s.bufAt c)) s := rfl

theorem exec_baClamp (a b : BufIx) (c : ScalIx) :
    exec (.baClamp a b c) s = .next (s.wrote 0x05 a (baClamp (s.bufAt b) (s.natAt c))) := rfl

theorem exec_baEqual (a : ScalIx) (b c : BufIx) :
    exec (.baEqual a b c) s = .next (s.wroteScal 0x06 a (baEqual (s.bufAt b) (s.bufAt c))) := rfl

theorem exec_baPartial (a : BufIx) (b c : ScalIx) (high : Bool) :
    exec (.baPartial a b c high) s = resultToBuf 0x07 a (baPartial (s.scalAt b) (s.natAt c) high) s := rfl

theorem exec_baGetPartial (a : ScalIx) (b : BufIx) :
    exec (.baGetPartial a b) s = .next (s.wroteScal 0x08 a (BitVec.ofNat 32 (partialCount (s.bufAt b)))) := rfl

theorem exec_hexDec (a b : BufIx) : exec (.hexDec a b) s = resultToBuf 0x10 a (hexDecode (s.bufAt b)) s := rfl

theorem exec_hexEnc (a b : BufIx) : exec (.hexEnc a b) s = resultToBuf 0x11 a (hexEncode (s.bufAt b)) s := rfl

theorem exec_b64Dec (a b : BufIx) (url : Bool) :
    exec (.b64Dec a b url) s = resultToBuf 0x12 a (b64Decode url (s.bufAt b)) s := rfl

theorem exec_b64Enc (a b : BufIx) (url nopad : Bool) :
    exec (.b64Enc a b url nopad) s = resultToBuf 0x13 a (b64Encode url nopad (s.bufAt b)) s := rfl

end

/-! The functions of the BitArray commands (R134 to R140) -/

theorem slice_eq_take_drop (x : Bits) (start stop : Nat) : slice x start stop = (x.drop start).take (stop - start) :=
  List.drop_take

theorem baClamp_eq_take (x : Bits) (len : Nat) : baClamp x len = x.take len := by
  unfold baClamp
  split
  next => rfl
  next hlen => exact (List.take_of_length_le (by omega)).symm

theorem baEqual_eq_ite (x y : Bits) : baEqual x y = if x = y then 1 else 0 :=
  if_congr (and_iff_right_of_imp (congrArg List.length)) rfl rfl

theorem drop_natToBits (n k v : Nat) : (natToBits (n + k) v).drop n = natToBits k v := by
  induction n with
  | zero => simp
  | succ n ih => rw [Nat.add_right_comm, natToBits, List.drop_succ_cons, ih]

/-- The low `len` bits of a word, and its high `len` bits, as parts of its string. -/
theorem baPartial_eq_ite (v : Word) (len : Nat) (high : Bool) :
    baPartial v len high =
      if len ≤ 32 then .ok (if high then (bvToBits v).take len else (bvToBits v).drop (32 - len))
      else .error .invalidParameter := by
  rw [baPartial]
  split
  next hlen =>
    have hlow : (bvToBits v).drop (32 - len) = natToBits len v.toNat := by
      have h := drop_natToBits (32 - len) len v.toNat
      rwa [Nat.sub_add_cancel hlen] at h
    rw [hlow]
    rfl
  next => rfl

theorem partialCount_eq_ite (x : Bits) :
    partialCount x = if x.length = 0 then 0 else (x.length - 1) % 32 + 1 := by
  rw [partialCount, ceilDiv]
  split
  · rfl
  · omega

/-! The commands (O24, O25, O23) -/

/-- Settles O24: each command is a test and a result, and the function's equation gives both. -/
theorem bitArrayCommands : Obligations.BitArrayCommands := by
  intro s
  refine ⟨fun a b => ?_, fun a b c d => ?_, fun a b c d => ?_, fun a b c => ?_, fun a b c => ?_, fun a b c => ?_,
    fun a b c high => ?_, fun a b => ?_⟩
  · rw [exec_baLen, baLen, resultToScal_ite, resultToScal_ok, resultToScal_error]
  · rw [exec_baSlice, baSlice, resultToBuf_ite, resultToBuf_ok, resultToBuf_error, slice_eq_take_drop]
  · rw [exec_baExtract, baExtract, resultToScal_ite, resultToScal_ok, resultToScal_error, slice_eq_take_drop,
      Nat.add_sub_cancel_left]
  · rw [exec_baConcat, baConcat, capacity, resultToBuf_ite, resultToBuf_ok, resultToBuf_error]
  · rw [exec_baClamp, baClamp_eq_take]
  · rw [exec_baEqual, baEqual_eq_ite]
  · rw [exec_baPartial, baPartial_eq_ite, resultToBuf_ite, resultToBuf_ok, resultToBuf_error]
  · rw [exec_baGetPartial, partialCount_eq_ite, apply_ite (BitVec.ofNat 32)]
    rfl

/-- Settles O25: the equations of the four codecs, with the errors in their order. -/
theorem codecCommands : Obligations.CodecCommands := by
  intro s
  refine ⟨fun a b => ?_, fun a b => ?_, fun a b url => ?_, fun a b url nopad => ?_⟩
  · simp only [exec_hexDec, hexDecode_eq_ite, resultToBuf_ite, resultToBuf_ok, resultToBuf_error]
  · simp only [exec_hexEnc, hexEncode_eq_ite, resultToBuf_ite, resultToBuf_ok, resultToBuf_error]
  · simp only [exec_b64Dec, b64Decode_eq_ite, resultToBuf_ite, resultToBuf_ok, resultToBuf_error,
      ← isB64Text_eq_not_contains]
  · simp only [exec_b64Enc, b64Encode_eq_ite, resultToBuf_ite, resultToBuf_ok, resultToBuf_error]
    rfl

/-- Settles O23: the fields of `succeed` and of `zeroized` are literally those of the statement. -/
theorem systemCommands : Obligations.SystemCommands := fun s => ⟨exec_nop s, exec_zeroize s⟩

end Sys2Proof.Machine
end

section
/-! Laws of AES (41_aes.md R170 to R179): products in GF(2^8), `MixColumns` and its inverse, columns as words and states
as blocks, the steps of a round and their inverses. -/

namespace Sys2Proof.Machine

/-! Sums of words -/

theorem bitVec_xor_xor_xor_comm {n : Nat} (a b c d : BitVec n) :
    (a ^^^ b) ^^^ (c ^^^ d) = (a ^^^ c) ^^^ (b ^^^ d) := by
  ac_rfl

theorem bitVec_xor_left_comm {n : Nat} (a b c : BitVec n) : a ^^^ (b ^^^ c) = b ^^^ (a ^^^ c) := by ac_rfl

/-! Products in GF(2^8) (R170) are linear in the left factor -/

theorem xtime_xor (a b : Byte) : xtime (a ^^^ b) = xtime a ^^^ xtime b := by
  have hxtime (c : Byte) : xtime c = c <<< 1 ^^^ if c.getLsbD 7 then 0x1B else 0 := by
    rw [xtime]
    split <;> simp
  rw [hxtime, hxtime, hxtime, bitVec_xor_xor_xor_comm, BitVec.getLsbD_xor, BitVec.shiftLeft_xor_distrib]
  cases a.getLsbD 7 <;> cases b.getLsbD 7 <;> simp

theorem xtime_zero : xtime 0 = 0 := by decide

theorem gmulStep_xor (b : Byte) (p q : Byte × Byte) (i : Nat) :
    gmulStep b (p.1 ^^^ q.1, p.2 ^^^ q.2) i =
      ((gmulStep b p i).1 ^^^ (gmulStep b q i).1, (gmulStep b p i).2 ^^^ (gmulStep b q i).2) := by
  simp only [gmulStep, xtime_xor]
  split
  · rw [bitVec_xor_xor_xor_comm]
  · rfl

theorem foldl_gmulStep_xor (b : Byte) (l : List Nat) (p q : Byte × Byte) :
    l.foldl (gmulStep b) (p.1 ^^^ q.1, p.2 ^^^ q.2) =
      ((l.foldl (gmulStep b) p).1 ^^^ (l.foldl (gmulStep b) q).1,
        (l.foldl (gmulStep b) p).2 ^^^ (l.foldl (gmulStep b) q).2) := by
  induction l generalizing p q with
  | nil => rfl
  | cons i l ih => rw [List.foldl_cons, gmulStep_xor, ih, List.foldl_cons, List.foldl_cons]

theorem gmul_xor_left (a a' b : Byte) : gmul (a ^^^ a') b = gmul a b ^^^ gmul a' b := by
  have h := congrArg Prod.fst (foldl_gmulStep_xor b (List.range 8) (0, a) (0, a'))
  rwa [BitVec.xor_self] at h

/-! The products of `MixColumns` and `InvMixColumns` as polynomials in `xtime` -/

theorem gmul_two (a : Byte) : gmul a 0x02 = xtime a := by simp [gmul, gmulStep, List.range_succ]

theorem gmul_three (a : Byte) : gmul a 0x03 = a ^^^ xtime a := by simp [gmul, gmulStep, List.range_succ]

theorem gmul_nine (a : Byte) : gmul a 0x09 = a ^^^ xtime (xtime (xtime a)) := by
  simp [gmul, gmulStep, List.range_succ]

theorem gmul_eleven (a : Byte) : gmul a 0x0b = a ^^^ xtime a ^^^ xtime (xtime (xtime a)) := by
  simp [gmul, gmulStep, List.range_succ]

theorem gmul_thirteen (a : Byte) : gmul a 0x0d = a ^^^ xtime (xtime a) ^^^ xtime (xtime (xtime a)) := by
  simp [gmul, gmulStep, List.range_succ]

theorem gmul_fourteen (a : Byte) : gmul a 0x0e = xtime a ^^^ xtime (xtime a) ^^^ xtime (xtime (xtime a)) := by
  simp [gmul, gmulStep, List.range_succ]

/-! `MixColumns` and its inverse on a column (R177, R179): both are linear, so columns of one byte decide -/

theorem mixCol_xor (x y : Col) : mixCol (x.xor y) = (mixCol x).xor (mixCol y) := by
  simp only [mixCol, Col.xor, gmul_xor_left, Col.mk.injEq]
  refine ⟨?_, ?_, ?_, ?_⟩ <;> ac_rfl

theorem invMixCol_xor (x y : Col) : invMixCol (x.xor y) = (invMixCol x).xor (invMixCol y) := by
  simp only [invMixCol, Col.xor, gmul_xor_left, Col.mk.injEq]
  refine ⟨?_, ?_, ?_, ?_⟩ <;> ac_rfl

theorem Col.eq_xor_bytes (c : Col) :
    c = ((Col.mk c.r0 0 0 0).xor ⟨0, c.r1, 0, 0⟩).xor ((Col.mk 0 0 c.r2 0).xor ⟨0, 0, 0, c.r3⟩) := by
  simp [Col.xor]

/-- Sums of powers of `x` times `a`, in which all but the wanted byte cancel: no product needs to be reduced. -/
theorem invMixCol_mixCol_byte (a : Byte) :
    invMixCol (mixCol ⟨a, 0, 0, 0⟩) = ⟨a, 0, 0, 0⟩ ∧ invMixCol (mixCol ⟨0, a, 0, 0⟩) = ⟨0, a, 0, 0⟩ ∧
      invMixCol (mixCol ⟨0, 0, a, 0⟩) = ⟨0, 0, a, 0⟩ ∧ invMixCol (mixCol ⟨0, 0, 0, a⟩) = ⟨0, 0, 0, a⟩ := by
  simp only [mixCol, invMixCol, gmul_two, gmul_three, gmul_nine, gmul_eleven, gmul_thirteen, gmul_fourteen, xtime_xor,
    xtime_zero, xor_zero, zero_xor]
  generalize xtime a = ax
  generalize xtime ax = ax2
  generalize xtime ax2 = ax3
  generalize xtime ax3 = ax4
  simp only [BitVec.xor_comm, bitVec_xor_left_comm, xor_cancel_left, LawfulXor.xor_self, xor_zero, and_self]

@[simp] theorem invMixCol_mixCol (c : Col) : invMixCol (mixCol c) = c := by
  obtain ⟨h0, -, -, -⟩ := invMixCol_mixCol_byte c.r0
  obtain ⟨-, h1, -, -⟩ := invMixCol_mixCol_byte c.r1
  obtain ⟨-, -, h2, -⟩ := invMixCol_mixCol_byte c.r2
  obtain ⟨-, -, -, h3⟩ := invMixCol_mixCol_byte c.r3
  calc invMixCol (mixCol c)
      = invMixCol (mixCol (((Col.mk c.r0 0 0 0).xor ⟨0, c.r1, 0, 0⟩).xor
          ((Col.mk 0 0 c.r2 0).xor ⟨0, 0, 0, c.r3⟩))) := by rw [← Col.eq_xor_bytes]
    _ = ((Col.mk c.r0 0 0 0).xor ⟨0, c.r1, 0, 0⟩).xor ((Col.mk 0 0 c.r2 0).xor ⟨0, 0, 0, c.r3⟩) := by
        simp only [mixCol_xor, invMixCol_xor, h0, h1, h2, h3]
    _ = c := c.eq_xor_bytes.symm

/-! The S-box (R171), byte by byte -/

@[simp] theorem invSbox_sbox : ∀ x : Byte, invSbox (sbox x) = x := by decide +kernel

/-- The two facts about the inverse stand together so that each inverse is computed once. -/
theorem sbox_eq_sboxFormula_and_gmul_ginv :
    ∀ x : Byte, sbox x = sboxFormula x ∧ (x ≠ 0 → gmul x (ginv x) = 1) := by decide +kernel

/-! Columns, words and blocks (R172) -/

@[simp] theorem colOfWord_toWord (c : Col) : colOfWord c.toWord = c := by
  simp (disch := decide) only [colOfWord, Col.toWord, BitVec.extractLsb'_append_eq_of_le,
    BitVec.extractLsb'_append_eq_right, BitVec.extractLsb'_eq_self, Nat.reduceSub, -Nat.reduceAdd]

@[simp] theorem toWord_colOfWord (v : Word) : (colOfWord v).toWord = v := by
  simp only [colOfWord, Col.toWord, BitVec.extractLsb'_append_extractLsb'_eq_extractLsb',
    BitVec.extractLsb'_eq_self, -Nat.reduceAdd]

theorem colOfWord_xor (v u : Word) : colOfWord (v ^^^ u) = (colOfWord v).xor (colOfWord u) := by
  simp only [colOfWord, Col.xor, BitVec.extractLsb'_xor]

@[simp] theorem stateOfBlock_toBlock (s : AesState) : stateOfBlock s.toBlock = s := by
  simp (disch := decide) only [stateOfBlock, AesState.toBlock, BitVec.extractLsb'_append_eq_of_le,
    BitVec.extractLsb'_append_eq_right, BitVec.extractLsb'_eq_self, Nat.reduceSub, colOfWord_toWord, -Nat.reduceAdd]

@[simp] theorem toBlock_stateOfBlock (x : Block) : (stateOfBlock x).toBlock = x := by
  simp only [stateOfBlock, AesState.toBlock, toWord_colOfWord, BitVec.extractLsb'_append_extractLsb'_eq_extractLsb',
    BitVec.extractLsb'_eq_self, -Nat.reduceAdd]

/-! The steps of a round and their inverses (R179) -/

@[simp] theorem invSubBytes_subBytes (s : AesState) : invSubBytes (subBytes s) = s := by
  simp only [invSubBytes, subBytes, AesState.map, Col.map, invSbox_sbox]

@[simp] theorem invShiftRows_shiftRows (s : AesState) : invShiftRows (shiftRows s) = s := rfl

@[simp] theorem invMixColumns_mixColumns (s : AesState) : invMixColumns (mixColumns s) = s := by
  simp only [invMixColumns, mixColumns, AesState.map, invMixCol_mixCol]

theorem Col.xor_xor_cancel (c k : Col) : (c.xor k).xor k = c := by
  simp only [Col.xor, xor_cancel_right]

@[simp] theorem addRoundKey_addRoundKey (ks : List Word) (r : Nat) (s : AesState) :
    addRoundKey ks r (addRoundKey ks r s) = s := by
  simp only [addRoundKey, Col.xor_xor_cancel]

/-- Bytes are substituted one by one, wherever they stand. -/
theorem invSubBytes_invShiftRows (s : AesState) : invSubBytes (invShiftRows s) = invShiftRows (invSubBytes s) := rfl

end Sys2Proof.Machine
end

section
/-! The AES block function (41_aes.md R178 to R185): decryption undoes encryption and the reverse, and decryption with
the decryption schedule is the same function. -/

namespace Sys2Proof.Machine

/-! The block function and its inverse (R180, R181, R185) -/

/-- A run of steps `f`, seen through `p`, is undone by the steps `g` in the reverse order when each step is. -/
theorem foldl_reverse_undo {α β γ : Type} {f : α → γ → α} {g : β → γ → β} {p : α → β}
    (h : ∀ s r, g (p (f s r)) r = p s) (l : List γ) (s : α) : l.reverse.foldl g (p (l.foldl f s)) = p s := by
  induction l generalizing s with
  | nil => rfl
  | cons r l ih =>
    rw [List.reverse_cons, List.foldl_append, List.foldl_cons, List.foldl_nil, List.foldl_cons, ih, h]

theorem decRound_encRound (w : List Word) (s : AesState) (r : Nat) :
    decRound w (shiftRows (subBytes (encRound w s r))) r = shiftRows (subBytes s) := by
  simp only [decRound, encRound, invShiftRows_shiftRows, invSubBytes_subBytes, addRoundKey_addRoundKey,
    invMixColumns_mixColumns]

theorem aesDecrypt_aesEncrypt (k : AesCtx) (x : Block) : aesDecrypt k (aesEncrypt k x) = x := by
  have hrounds (s : AesState) := foldl_reverse_undo (p := fun s => shiftRows (subBytes s)) (decRound_encRound k.w)
    (List.range' 1 (k.nr - 1)) s
  simp only [aesDecrypt, aesEncrypt, stateOfBlock_toBlock, addRoundKey_addRoundKey, hrounds, invShiftRows_shiftRows,
    invSubBytes_subBytes, toBlock_stateOfBlock]

/-- There are finitely many blocks, so a left inverse of the block function is a right inverse. -/
theorem aesEncrypt_aesDecrypt (k : AesCtx) (y : Block) : aesEncrypt k (aesDecrypt k y) = y := by
  have hleft : Function.LeftInverse (aesDecrypt k) (aesEncrypt k) := aesDecrypt_aesEncrypt k
  exact hleft.rightInverse_of_surjective (Finite.surjective_of_injective hleft.injective) y

/-- Settles O42: decryption undoes encryption round by round, and the converse follows because the blocks are finitely
many. -/
theorem aesInverse : Obligations.AesInverse := fun k x => ⟨aesDecrypt_aesEncrypt k x, aesEncrypt_aesDecrypt k x⟩

/-! Decryption with the decryption schedule (R178, R183) -/

theorem getElem?_flatMap_range {α : Type} (f : Nat → Nat → α) {m n r j : Nat} (hr : r < n) (hj : j < m) :
    ((List.range n).flatMap fun r => (List.range m).map (f r))[m * r + j]? = some (f r j) := by
  induction n with
  | zero => cases hr
  | succ n ih =>
    have hlen : ((List.range n).flatMap fun r => (List.range m).map (f r)).length = m * n := by
      simp [List.length_flatMap, Nat.mul_comm]
    rw [List.range_succ, List.flatMap_append, List.flatMap_singleton]
    obtain hr | rfl := Nat.lt_succ_iff_lt_or_eq.mp hr
    · have hle : m * r + m ≤ m * n := Nat.mul_le_mul_left m hr
      rw [List.getElem?_append_left (by omega), ih hr]
    · rw [List.getElem?_append_right (by omega), hlen, Nat.add_sub_cancel_left]
      simp [hj]

theorem getD_decSchedule {nr r j : Nat} (w : List Word) (hr : r ≤ nr) (hj : j < 4) :
    (decSchedule nr w).getD (4 * r + j) 0 =
      if r = 0 ∨ r = nr then w.getD (4 * (nr - r) + j) 0 else invMixWord (w.getD (4 * (nr - r) + j) 0) := by
  rw [List.getD_eq_getElem?_getD, decSchedule, getElem?_flatMap_range _ (Nat.lt_succ_of_le hr) hj, Option.getD_some]

theorem addRoundKey_congr {ks ks' : List Word} {r r' : Nat}
    (h : ∀ j < 4, ks.getD (4 * r + j) 0 = ks'.getD (4 * r' + j) 0) (s : AesState) :
    addRoundKey ks r s = addRoundKey ks' r' s := by
  have h0 : ks.getD (4 * r) 0 = ks'.getD (4 * r') 0 := h 0 (by decide)
  simp only [addRoundKey, h0, h 1 (by decide), h 2 (by decide), h 3 (by decide)]

theorem colOfWord_invMixWord (v : Word) : colOfWord (invMixWord v) = invMixCol (colOfWord v) := colOfWord_toWord _

theorem addRoundKey_invMixColumns {dw w : List Word} {r r' : Nat}
    (h : ∀ j < 4, dw.getD (4 * r + j) 0 = invMixWord (w.getD (4 * r' + j) 0)) (s : AesState) :
    addRoundKey dw r (invMixColumns s) = invMixColumns (addRoundKey w r' s) := by
  have h0 : dw.getD (4 * r) 0 = invMixWord (w.getD (4 * r') 0) := h 0 (by decide)
  simp only [addRoundKey, invMixColumns, AesState.map, invMixCol_xor, ← colOfWord_invMixWord, h0, h 1 (by decide),
    h 2 (by decide), h 3 (by decide)]

theorem addRoundKey_decSchedule_zero (nr : Nat) (w : List Word) (s : AesState) :
    addRoundKey (decSchedule nr w) 0 s = addRoundKey w nr s :=
  addRoundKey_congr (fun j hj => by rw [getD_decSchedule w (Nat.zero_le nr) hj, if_pos (.inl rfl), Nat.sub_zero]) s

theorem addRoundKey_decSchedule_last (nr : Nat) (w : List Word) (s : AesState) :
    addRoundKey (decSchedule nr w) nr s = addRoundKey w 0 s :=
  addRoundKey_congr (fun j hj => by rw [getD_decSchedule w le_rfl hj, if_pos (.inr rfl), Nat.sub_self]) s

theorem decRoundEq_decSchedule {nr r : Nat} (w : List Word) (hr : 0 < r) (hr' : r < nr) (s : AesState) :
    decRoundEq (decSchedule nr w) s r = decRound w s (nr - r) := by
  have hkeys (j : Nat) (hj : j < 4) :
      (decSchedule nr w).getD (4 * r + j) 0 = invMixWord (w.getD (4 * (nr - r) + j) 0) := by
    rw [getD_decSchedule w hr'.le hj, if_neg (by omega)]
  rw [decRoundEq, decRound, addRoundKey_invMixColumns hkeys, invSubBytes_invShiftRows]

/-- The rounds `nr - 1` down to 1 are round `nr - r` for `r` from 1. -/
theorem reverse_innerRounds (nr : Nat) :
    (List.range' 1 (nr - 1)).reverse = (List.range' 1 (nr - 1)).map fun r => nr - r := by
  apply List.ext_getElem
  · simp
  · intro i hi _
    rw [List.length_reverse, List.length_range'] at hi
    rw [List.getElem_reverse, List.getElem_map, List.getElem_range', List.getElem_range', List.length_range']
    omega

theorem foldl_decRoundEq (nr : Nat) (w : List Word) (s : AesState) :
    (List.range' 1 (nr - 1)).foldl (decRoundEq (decSchedule nr w)) s =
      (List.range' 1 (nr - 1)).reverse.foldl (decRound w) s := by
  rw [reverse_innerRounds, List.foldl_map]
  refine List.foldl_ext _ _ _ fun s r hr => ?_
  have hmem := List.mem_range'_1.mp hr
  exact decRoundEq_decSchedule w (by omega) (by omega) s

theorem aesDecryptEq_eq {k : AesCtx} (hk : k.dw = decSchedule k.nr k.w) (y : Block) :
    aesDecryptEq k y = aesDecrypt k y := by
  simp only [aesDecryptEq, aesDecrypt, hk, addRoundKey_decSchedule_zero, foldl_decRoundEq, addRoundKey_decSchedule_last,
    invSubBytes_invShiftRows]

/-- Settles O43: `InvMixColumns` is linear, so it moves past the addition of a round key, which the decryption schedule
holds transformed; this needs nothing of the key's length. -/
theorem aesEquivalentDecryption : Obligations.AesEquivalentDecryption := fun _ y _ => aesDecryptEq_eq rfl y

end Sys2Proof.Machine
end

section
/-! The rounds by tables (41_aes.md R186) and the CRC step by table (48_legacy_rc2_md5_crc32.md R397). -/

namespace Sys2Proof.Machine

/-! A piece of a word rotated right by `r` bits is the piece `r` bits further up, around the end -/

theorem extractLsb'_rotateRight_of_le {w r i n : Nat} (v : BitVec w) (h : i + n + r ≤ w) (hr : r < w) :
    (v.rotateRight r).extractLsb' i n = v.extractLsb' (i + r) n := by
  ext j hj
  simp only [BitVec.getElem_extractLsb', BitVec.getLsbD_rotateRight_of_lt hr]
  rw [decide_eq_true (by omega), cond_true]
  congr 1
  omega

theorem extractLsb'_rotateRight_of_ge {w r i n : Nat} (v : BitVec w) (h : w ≤ i + r) (hi : i + n ≤ w) (hr : r < w) :
    (v.rotateRight r).extractLsb' i n = v.extractLsb' (i + r - w) n := by
  ext j hj
  simp only [BitVec.getElem_extractLsb', BitVec.getLsbD_rotateRight_of_lt hr]
  rw [decide_eq_false (by omega), cond_false, decide_eq_true (by omega), Bool.true_and]
  congr 1
  omega

theorem word_rotateRight_zero (v : Word) : v.rotateRight 0 = v := by simp [BitVec.rotateRight_def]

theorem colOfWord_rotateRight_one (v : Word) :
    colOfWord (v.rotateRight 8) =
      ⟨(colOfWord v).r3, (colOfWord v).r0, (colOfWord v).r1, (colOfWord v).r2⟩ := by
  simp (disch := decide) only [colOfWord, extractLsb'_rotateRight_of_le, extractLsb'_rotateRight_of_ge]

theorem colOfWord_rotateRight_two (v : Word) :
    colOfWord (v.rotateRight 16) =
      ⟨(colOfWord v).r2, (colOfWord v).r3, (colOfWord v).r0, (colOfWord v).r1⟩ := by
  simp (disch := decide) only [colOfWord, extractLsb'_rotateRight_of_le, extractLsb'_rotateRight_of_ge]

theorem colOfWord_rotateRight_three (v : Word) :
    colOfWord (v.rotateRight 24) =
      ⟨(colOfWord v).r1, (colOfWord v).r2, (colOfWord v).r3, (colOfWord v).r0⟩ := by
  simp (disch := decide) only [colOfWord, extractLsb'_rotateRight_of_le, extractLsb'_rotateRight_of_ge]

/-! A round by tables is the round by its steps (R180, R183, R186) -/

theorem tableColumn_encTable (a b c d : Byte) (k : Word) :
    tableColumn encTable a b c d k = (mixCol ⟨sbox a, sbox b, sbox c, sbox d⟩).xor (colOfWord k) := by
  simp only [tableColumn, encTable, colOfWord_xor, word_rotateRight_zero, colOfWord_rotateRight_one,
    colOfWord_rotateRight_two, colOfWord_rotateRight_three, colOfWord_toWord, Nat.reduceMul, Col.xor, mixCol]

theorem tableColumn_decTable (a b c d : Byte) (k : Word) :
    tableColumn decTable a b c d k = (invMixCol ⟨invSbox a, invSbox b, invSbox c, invSbox d⟩).xor (colOfWord k) := by
  simp only [tableColumn, decTable, colOfWord_xor, word_rotateRight_zero, colOfWord_rotateRight_one,
    colOfWord_rotateRight_two, colOfWord_rotateRight_three, colOfWord_toWord, Nat.reduceMul, Col.xor, invMixCol]

theorem encRoundTables_eq (w : List Word) (s : AesState) (r : Nat) : encRoundTables w s r = encRound w s r := by
  simp only [encRoundTables, tableColumn_encTable]
  rfl

theorem decRoundTables_eq (dw : List Word) (s : AesState) (r : Nat) : decRoundTables dw s r = decRoundEq dw s r := by
  simp only [decRoundTables, tableColumn_decTable]
  rfl

/-! The CRC step by table (R396, R397) -/

theorem crcShift1_of_even {c : Word} (h : c.getLsbD 0 = false) : crcShift1 c = c >>> 1 := by
  rw [crcShift1, h]
  rfl

theorem crcShift1_xor (a b : Word) : crcShift1 (a ^^^ b) = crcShift1 a ^^^ crcShift1 b := by
  have hshift (c : Word) : crcShift1 c = c >>> 1 ^^^ if c.getLsbD 0 then 0xEDB88320 else 0 := by
    rw [crcShift1]
    split <;> simp
  rw [hshift, hshift, hshift, bitVec_xor_xor_xor_comm, BitVec.getLsbD_xor, BitVec.ushiftRight_xor_distrib]
  cases a.getLsbD 0 <;> cases b.getLsbD 0 <;> simp

theorem crcShift8_xor (a b : Word) : crcShift8 (a ^^^ b) = crcShift8 a ^^^ crcShift8 b := by
  simp only [crcShift8, crcShift1_xor]

theorem crcShift8_of_low_zero {c : Word} (h : ∀ i < 8, c.getLsbD i = false) : crcShift8 c = c >>> 8 := by
  have hbit (k : Nat) (hk : k < 8) : crcShift1 (c >>> k) = c >>> (k + 1) := by
    rw [crcShift1_of_even (by rw [BitVec.getLsbD_ushiftRight]; exact h _ hk), BitVec.shiftRight_add]
  have hzero : crcShift1 c = c >>> 1 := crcShift1_of_even (h 0 (by decide))
  simp only [crcShift8, hzero]
  simp (disch := decide) only [hbit]

/-- The low byte of the register and the rest are shifted apart: the rest only moves down. -/
theorem crcByteTable_eq (c : Word) (x : Byte) : crcByteTable c x = crcByte c x := by
  rw [crcByteTable, crcByte, crcTab]
  generalize c ^^^ x.setWidth 32 = y
  have hlow : ∀ i < 8, (y ^^^ (y.extractLsb' 0 8).setWidth 32).getLsbD i = false := by
    intro i hi
    simp [hi, show i < 32 by omega]
  have hhigh : (y ^^^ (y.extractLsb' 0 8).setWidth 32) >>> 8 = y >>> 8 := by
    ext i hi
    simp
  show _ = crcShift8 y
  rw [← hhigh, ← crcShift8_of_low_zero hlow, ← crcShift8_xor, xor_xor_cancel_comm_assoc]

/-- Settles O41: the S-box by evaluation, a round by tables because the tables hold the columns that `MixColumns` adds,
the CRC because a shift step is linear. -/
theorem tableForms : Obligations.TableForms := by
  refine ⟨fun x => ⟨?_, invSbox_sbox x⟩, fun a => ?_, encRoundTables_eq, decRoundTables_eq, by decide, by decide,
    by decide, crcByteTable_eq⟩
  · obtain ⟨hformula, -⟩ := sbox_eq_sboxFormula_and_gmul_ginv x
    exact hformula
  · obtain ⟨-, hinv⟩ := sbox_eq_sboxFormula_and_gmul_ginv a
    exact hinv

end Sys2Proof.Machine
end

section
/-! The AES commands (41_aes.md R174, R182, R184) as equations of the next state. -/

namespace Sys2Proof.Machine

theorem blockOf_of_length {x : Bits} (h : x.length = 128) : blockOf x = bitsToBv 128 x := by
  rw [blockOf, padr, h, Nat.sub_self, zeros, List.replicate_zero, List.append_nil]

theorem oneBlock_eq_ite (f : Block → Block) (x : Bits) :
    oneBlock f x = if x.length = 128 then .ok (bvToBits (f (bitsToBv 128 x))) else .error .invalidBlockSize := by
  by_cases h : x.length = 128
  · rw [oneBlock, if_neg (not_not.mpr h), if_pos h, blockOf_of_length h]
  · rw [oneBlock, if_pos h, if_neg h]

theorem isAesKeyLength_iff (n : Nat) : isAesKeyLength n = true ↔ n ∈ [128, 192, 256] := by
  simp [isAesKeyLength, or_assoc]

theorem exec_aesKey (a : KeyIx) (b : BufIx) (s : State) :
    exec (.aesKey a b) s =
      if isAesKeyLength (s.bufAt b).length then .next ((s.setKey a (aesContext (s.bufAt b))).succeed 0x20)
      else .next (s.fail 0x20 .invalidKeySize) := rfl

theorem exec_aesEnc (a b : BufIx) (e : KeyIx) (s : State) :
    exec (.aesEnc a b e) s =
      resultToBuf 0x21 a (withKey (s.keyAt e) fun k => oneBlock (aesEncrypt k) (s.bufAt b)) s := rfl

theorem exec_aesDec (a b : BufIx) (e : KeyIx) (s : State) :
    exec (.aesDec a b e) s =
      resultToBuf 0x22 a (withKey (s.keyAt e) fun k => oneBlock (aesDecrypt k) (s.bufAt b)) s := rfl

theorem resultToBuf_oneBlock (op : Byte) (a : BufIx) (f : Block → Block) (x : Bits) (s : State) :
    resultToBuf op a (oneBlock f x) s =
      if x.length = 128 then .next (s.wrote op a (bvToBits (f (bitsToBv 128 x))))
      else .next (s.failedTo op a .invalidBlockSize) := by
  rw [oneBlock_eq_ite, resultToBuf_ite, resultToBuf_ok, resultToBuf_error]

/-- Settles O26: the slot is looked at first, then the length of the block. -/
theorem aesCommands : Obligations.AesCommands := by
  refine fun s => ⟨fun a b => ?_, fun a b e => ?_, fun a b e => ?_⟩
  · rw [exec_aesKey]
    exact if_congr (isAesKeyLength_iff _) rfl rfl
  · rw [exec_aesEnc]
    cases s.keyAt e with
    | none => rfl
    | some k => exact resultToBuf_oneBlock 0x21 a (aesEncrypt k) (s.bufAt b) s
  · rw [exec_aesDec]
    cases s.keyAt e with
    | none => rfl
    | some k => exact resultToBuf_oneBlock 0x22 a (aesDecrypt k) (s.bufAt b) s

end Sys2Proof.Machine
end

section
/-! The hashes as functions of bit strings (42_sha2.md R207 to R216): absorbing a message in parts, the padded message,
the constants, and SHA-512 on 32-bit halves. -/

namespace Sys2Proof.Machine

/-! Absorbing a message in parts (R210) -/

theorem splitEvery_append_of_dvd {n : Nat} (hn : 0 < n) {x : Bits} (hx : n ∣ x.length) (y : Bits) :
    splitEvery n (x ++ y) = splitEvery n x ++ splitEvery n y := by
  induction x using pieces_induction hn with
  | nil => rfl
  | piece x hne ih =>
    have hle : n ≤ x.length := Nat.le_of_dvd (List.length_pos_iff.mpr hne) hx
    have hrest : n ∣ (x.drop n).length := by simpa using Nat.dvd_sub hx (dvd_refl n)
    calc splitEvery n (x ++ y)
        = splitEvery n (x.take n ++ (x.drop n ++ y)) := by rw [← List.append_assoc, List.take_append_drop]
      _ = x.take n :: (splitEvery n (x.drop n) ++ splitEvery n y) := by
          rw [splitEvery_append hn (List.length_take_of_le hle), ih hrest]
      _ = splitEvery n x ++ splitEvery n y := by rw [splitEvery_of_ne_nil hn hne, List.cons_append]

/-- The bits in the full blocks of `x`. -/
def fullBits (n : Nat) (x : Bits) : Nat := x.length / n * n

theorem fullBits_le (n : Nat) (x : Bits) : fullBits n x ≤ x.length := Nat.div_mul_le_self _ _

theorem length_take_fullBits (n : Nat) (x : Bits) : (x.take (fullBits n x)).length = fullBits n x :=
  List.length_take_of_le (fullBits_le n x)

theorem fullBits_append {n : Nat} (hn : 0 < n) {x : Bits} (hx : n ∣ x.length) (y : Bits) :
    fullBits n (x ++ y) = x.length + fullBits n y := by
  obtain ⟨k, hk⟩ := hx
  rw [fullBits, fullBits, List.length_append, hk, Nat.mul_add_div hn, Nat.add_mul, Nat.mul_comm k]

/-- The running words and the pending string once the full blocks of `x` are compressed: what `shaAbsorb` makes of the
pending string with the new bits behind it. -/
def shaBlocks {w : Nat} (p : ShaParams w) (h : Hash8 w) (x : Bits) : Hash8 w × Bits :=
  ((splitEvery p.bs (x.take (fullBits p.bs x))).foldl (shaCompress p) h, x.drop (fullBits p.bs x))

theorem shaAbsorb_eq {w : Nat} (p : ShaParams w) (c : ShaState w) (x : Bits) :
    shaAbsorb p c x =
      { h := (shaBlocks p c.h (c.buf ++ x)).1, buf := (shaBlocks p c.h (c.buf ++ x)).2, len := c.len + x.length } := rfl

/-- Whole blocks in front are compressed first. -/
theorem shaBlocks_append {w : Nat} {p : ShaParams w} (hbs : 0 < p.bs) (h : Hash8 w) {x : Bits} (hx : p.bs ∣ x.length)
    (y : Bits) : shaBlocks p h (x ++ y) = shaBlocks p ((splitEvery p.bs x).foldl (shaCompress p) h) y := by
  rw [shaBlocks, fullBits_append hbs hx, List.take_length_add_append, List.drop_length_add_append,
    splitEvery_append_of_dvd hbs hx, List.foldl_append]
  rfl

/-- What is pending after the full blocks of `z` is compressed with the bits that follow. -/
theorem shaBlocks_shaBlocks {w : Nat} {p : ShaParams w} (hbs : 0 < p.bs) (h : Hash8 w) (z y : Bits) :
    shaBlocks p (shaBlocks p h z).1 ((shaBlocks p h z).2 ++ y) = shaBlocks p h (z ++ y) := by
  have hdvd : p.bs ∣ (z.take (fullBits p.bs z)).length := by
    rw [length_take_fullBits]
    exact Dvd.intro_left _ rfl
  calc shaBlocks p (shaBlocks p h z).1 ((shaBlocks p h z).2 ++ y)
      = shaBlocks p h (z.take (fullBits p.bs z) ++ (z.drop (fullBits p.bs z) ++ y)) :=
        (shaBlocks_append hbs h hdvd _).symm
    _ = shaBlocks p h (z ++ y) := by rw [← List.append_assoc, List.take_append_drop]

theorem shaAbsorb_shaAbsorb {w : Nat} {p : ShaParams w} (hbs : 0 < p.bs) (c : ShaState w) (x y : Bits) :
    shaAbsorb p (shaAbsorb p c x) y = shaAbsorb p c (x ++ y) := by
  rw [shaAbsorb_eq p c x, shaAbsorb_eq, shaAbsorb_eq, shaBlocks_shaBlocks hbs, List.append_assoc, List.length_append,
    Nat.add_assoc]

/-! The padded message (R208) -/

theorem shaPadded_length {w : Nat} (p : ShaParams w) (c : ShaState w) :
    (shaPadded p c).length =
      c.buf.length + 1 + p.lw + (p.bs - (c.buf.length + 1 + p.lw) % p.bs) % p.bs := by
  simp only [shaPadded, List.length_append, List.length_cons, zeros, List.length_replicate, natToBits_length]
  omega

/-- Fewer pending bits than a block: one block when the 1 bit and the length field fit behind them, else two. -/
theorem shaPadded_length_eq_ite {w : Nat} {p : ShaParams w} (hlw : p.lw < p.bs) (c : ShaState w)
    (hc : c.buf.length < p.bs) :
    (shaPadded p c).length = if c.buf.length + 1 + p.lw ≤ p.bs then p.bs else 2 * p.bs := by
  rw [shaPadded_length]
  split
  next hle =>
    rcases Nat.lt_or_eq_of_le hle with hlt | heq
    · rw [Nat.mod_eq_of_lt hlt, Nat.mod_eq_of_lt (by omega)]
      omega
    · rw [heq, Nat.mod_self, Nat.sub_zero, Nat.mod_self, Nat.add_zero]
  next hgt =>
    have hmod : (c.buf.length + 1 + p.lw) % p.bs = c.buf.length + 1 + p.lw - p.bs := by
      rw [Nat.mod_eq_sub_mod (by omega), Nat.mod_eq_of_lt (by omega)]
    rw [hmod, Nat.mod_eq_of_lt (by omega)]
    omega

/-- Settles O46: the boundary `512 - 1 - 64 = 447` is where the length field still fits, and `1024 - 1 - 128 = 895`
likewise; a digest is eight words. -/
theorem paddedMessage : Obligations.PaddedMessage := by
  refine ⟨fun c hc => ?_, fun c hc => ?_, fun alg m => ?_⟩
  · rw [shaPadded_length_eq_ite (p := sha256P) (by decide) c hc]
    exact if_congr (show c.buf.length + 1 + 64 ≤ 512 ↔ _ by omega) rfl rfl
  · rw [shaPadded_length_eq_ite (p := sha512P) (by decide) c hc]
    exact if_congr (show c.buf.length + 1 + 128 ≤ 1024 ↔ _ by omega) rfl rfl
  · rw [hashOf_length]
    cases alg <;> rfl

/-! The constants (R205) -/

/-- The first 80 primes, which the constants of R205 are the roots of. -/
def shaPrimes : List Nat :=
  [2, 3, 5, 7, 11, 13, 17, 19, 23, 29, 31, 37, 41, 43, 47, 53, 59, 61, 67, 71, 73, 79, 83, 89, 97, 101, 103, 107, 109,
    113, 127, 131, 137, 139, 149, 151, 157, 163, 167, 173, 179, 181, 191, 193, 197, 199, 211, 223, 227, 229, 233, 239,
    241, 251, 257, 263, 269, 271, 277, 281, 283, 293, 307, 311, 313, 317, 331, 337, 347, 349, 353, 359, 367, 373, 379,
    383, 389, 397, 401, 409]

/-- The numbers below 410 that no number from 2 on, below them, divides. -/
theorem filter_range_eq_shaPrimes :
    ((List.range 410).filter fun n => decide (2 ≤ n) && (List.range n).all fun d => decide (d < 2) || n % d != 0) =
      shaPrimes := by decide +kernel

/-- Settles O44: the sieve names the primes, and each constant is held against its prime by the integer inequalities,
a table at a time. -/
theorem hashConstants : Obligations.HashConstants := by
  unfold Obligations.HashConstants
  rw [filter_range_eq_shaPrimes]
  refine ⟨?_, ?_, ?_, ?_, ?_, ?_, ?_⟩ <;> decide +kernel

end Sys2Proof.Machine
end

section
/-! SHA-512 on 32-bit halves (42_sha2.md R216): a 64-bit word as its pair of halves, under addition and rotation, and in
the message. -/

namespace Sys2Proof.Machine

/-! A word as its halves -/

/-- The high and the low 32-bit half of a word. -/
def halves (x : BitVec 64) : Word × Word := (x.extractLsb' 32 32, x.extractLsb' 0 32)

theorem toNat_halves (x : BitVec 64) :
    (halves x).1.toNat = x.toNat / 2 ^ 32 ∧ (halves x).2.toNat = x.toNat % 2 ^ 32 := by
  have hx := x.isLt
  simp only [halves, BitVec.extractLsb'_toNat, Nat.shiftRight_eq_div_pow]
  omega

/-- The sum is below a summand exactly when it passed `2^32`. -/
theorem toNat_carry (x y : Word) : (if x + y < x then (1 : Word) else 0).toNat = (x.toNat + y.toNat) / 2 ^ 32 := by
  have hx := x.isLt
  have hy := y.isLt
  simp only [BitVec.lt_def, BitVec.toNat_add]
  split
  next h =>
    show 1 = _
    omega
  next h =>
    show 0 = _
    omega

theorem add64Halves_halves (x y : BitVec 64) :
    add64Halves (halves x).1 (halves x).2 (halves y).1 (halves y).2 = halves (x + y) := by
  obtain ⟨hxh, hxl⟩ := toNat_halves x
  obtain ⟨hyh, hyl⟩ := toNat_halves y
  obtain ⟨hh, hl⟩ := toNat_halves (x + y)
  rw [BitVec.toNat_add] at hh hl
  refine Prod.ext (BitVec.eq_of_toNat_eq ?_) (BitVec.eq_of_toNat_eq ?_)
  · rw [add64Halves, BitVec.toNat_add, BitVec.toNat_add, toNat_carry]
    omega
  · rw [add64Halves, BitVec.toNat_add]
    omega

/-! Rotation (R216) -/

theorem rotateRight_rotateRight {w r t : Nat} (x : BitVec w) (h : r + t < w) :
    (x.rotateRight r).rotateRight t = x.rotateRight (r + t) := by
  ext i hi
  simp only [BitVec.getElem_rotateRight, Nat.mod_eq_of_lt h, Nat.mod_eq_of_lt (show r < w by omega),
    Nat.mod_eq_of_lt (show t < w by omega)]
  split_ifs <;> congr 1 <;> omega

theorem halves_rotateRight_half (x : BitVec 64) : halves (x.rotateRight 32) = (halves x).swap := by
  simp (disch := decide) only [halves, extractLsb'_rotateRight_of_le, extractLsb'_rotateRight_of_ge, Prod.swap]

/-- Rotated by less than a half, a half takes at its top what the other half loses at its bottom. -/
theorem extractLsb'_half_rotateRight (x : BitVec 64) {n i j : Nat} (hn : n < 32)
    (hij : i = 0 ∧ j = 32 ∨ i = 32 ∧ j = 0) :
    (x.rotateRight n).extractLsb' i 32 = x.extractLsb' i 32 >>> n ||| x.extractLsb' j 32 <<< (32 - n) := by
  ext k hk
  simp only [BitVec.getElem_extractLsb', BitVec.getElem_or, BitVec.getElem_ushiftRight, BitVec.getElem_shiftLeft,
    BitVec.getLsbD_extractLsb', BitVec.getLsbD_rotateRight_of_lt (show n < 64 by omega)]
  by_cases hnk : n + k < 32
  · have hidx : n + (i + k) = i + (n + k) := by omega
    simp [hnk, show i + k < 64 - n by omega, show k < 32 - n by omega, hidx]
  · rcases hij with ⟨rfl, rfl⟩ | ⟨rfl, rfl⟩
    · have hidx : n + k = 32 + (k - (32 - n)) := by omega
      simp [hnk, show k < 64 - n by omega, show ¬k < 32 - n by omega, ← hidx]
    · have hidx : 32 + k - (64 - n) = k - (32 - n) := by omega
      simp [hnk, show ¬32 + k < 64 - n by omega, show ¬k < 32 - n by omega, show 32 + k < 64 by omega, hidx]

theorem halves_rotateRight_of_lt (x : BitVec 64) {n : Nat} (hn : n < 32) :
    halves (x.rotateRight n) =
      ((halves x).1 >>> n ||| (halves x).2 <<< (32 - n), (halves x).2 >>> n ||| (halves x).1 <<< (32 - n)) :=
  Prod.ext (extractLsb'_half_rotateRight x hn (.inr ⟨rfl, rfl⟩)) (extractLsb'_half_rotateRight x hn (.inl ⟨rfl, rfl⟩))

/-- By more than a half: the halves are exchanged, and the rest is a rotation by less than a half. -/
theorem rotr64Halves_halves (x : BitVec 64) {n : Nat} (hn : n < 64) :
    rotr64Halves (halves x).1 (halves x).2 n = halves (x.rotateRight n) := by
  unfold rotr64Halves
  split
  next hlt => exact (halves_rotateRight_of_lt x hlt).symm
  next hge =>
    split
    next heq => rw [heq, halves_rotateRight_half]; rfl
    next hne =>
      have hsplit : x.rotateRight n = (x.rotateRight 32).rotateRight (n - 32) := by
        rw [rotateRight_rotateRight x (by omega), show 32 + (n - 32) = n by omega]
      rw [hsplit, halves_rotateRight_of_lt _ (by omega), halves_rotateRight_half, show 32 - (n - 32) = 64 - n by omega]
      rfl

/-! Message words (R207, R209) -/

theorem bitsToBv_append {m n : Nat} {x y : Bits} (hx : x.length = m) (hy : y.length = n) :
    bitsToBv (m + n) (x ++ y) = bitsToBv m x ++ bitsToBv n y := by
  subst hx hy
  apply BitVec.eq_of_toNat_eq
  have hx := bitsToNat_lt x
  have hy := bitsToNat_lt y
  have hxy := bitsToNat_lt (x ++ y)
  rw [List.length_append] at hxy
  rw [BitVec.toNat_append, bitsToBv, bitsToBv, bitsToBv, BitVec.toNat_ofNat, BitVec.toNat_ofNat, BitVec.toNat_ofNat,
    Nat.mod_eq_of_lt hx, Nat.mod_eq_of_lt hy, Nat.mod_eq_of_lt hxy, bitsToNat_append,
    ← Nat.shiftLeft_add_eq_or_of_lt hy, Nat.shiftLeft_eq]

theorem slice_append_slice (x : Bits) {s m e : Nat} (hs : s ≤ m) (hm : m ≤ e) :
    slice x s m ++ slice x m e = slice x s e := by
  rw [slice_eq_take_drop, slice_eq_take_drop, slice_eq_take_drop, show e - s = m - s + (e - m) by omega, List.take_add,
    List.drop_drop, Nat.add_sub_cancel' hs]

theorem wordAt_of_full {x : Bits} {i : Nat} (h : 32 * i + 32 ≤ x.length) :
    wordAt x i = bitsToBv 32 (slice x (32 * i) (32 * i + 32)) := by
  rw [wordAt, padr, slice_length, show 32 - (min (32 * i + 32) x.length - 32 * i) = 0 by omega, zeros,
    List.replicate_zero, List.append_nil]

theorem shaMessage_getElem? {w : Nat} (p : ShaParams w) (block : Bits) {t : Nat} (ht : t < 16) :
    (shaMessage p block)[t]? = some (bitsToBv w (slice block (w * t) (w * t + w))) := by
  simp [shaMessage, ht]

theorem bitsToBv_slice_eq_words {x : Bits} {t : Nat} (h : 64 * t + 64 ≤ x.length) :
    bitsToBv 64 (slice x (64 * t) (64 * t + 64)) = wordAt x (2 * t) ++ wordAt x (2 * t + 1) := by
  have hlen (i : Nat) (hi : 32 * i + 32 ≤ x.length) : (slice x (32 * i) (32 * i + 32)).length = 32 := by
    rw [slice_length]
    omega
  rw [wordAt_of_full (by omega), wordAt_of_full (by omega), ← bitsToBv_append (hlen _ (by omega)) (hlen _ (by omega)),
    show 32 * (2 * t + 1) = 32 * (2 * t) + 32 by omega, slice_append_slice x (by omega) (by omega),
    show 32 * (2 * t) = 64 * t by omega]

/-- Settles O47: addition by the carry between the halves, rotation by what crosses from half to half, a message word
by its two slices. -/
theorem sha512Halves : Obligations.Sha512Halves :=
  ⟨add64Halves_halves, fun x _ _ hn => rotr64Halves_halves x hn, fun block t hlen ht => by
    rw [shaMessage_getElem? sha512P block ht, bitsToBv_slice_eq_words (by omega)]⟩

end Sys2Proof.Machine
end

section
/-! The hash commands (42_sha2.md R210 to R215) as equations of the next state, and a digest over several commands. -/

namespace Sys2Proof.Machine

/-! A slot's context, whichever its algorithm (R26, R210) -/

/-- The number of bits a context has been given since it was reset. -/
def HashCtx.len : HashCtx → Nat
  | .sha256 c => c.len
  | .sha512 c => c.len

/-- A context given further bits, where the length counter allows it. -/
def hashAbsorb : HashCtx → Bits → HashCtx
  | .sha256 c, x => .sha256 (shaAbsorb sha256P c x)
  | .sha512 c, x => .sha512 (shaAbsorb sha512P c x)

theorem shaUpdate_eq_ite {w : Nat} (p : ShaParams w) (c : ShaState w) (x : Bits) :
    shaUpdate p c x = if c.len + x.length < 2 ^ 64 then .ok (shaAbsorb p c x) else .error .invalidParameter := by
  rw [shaUpdate, ← ite_not]
  exact if_congr Nat.not_le rfl rfl

theorem hashUpdate_eq_ite (c : HashCtx) (x : Bits) :
    hashUpdate c x = if c.len + x.length < 2 ^ 64 then .ok (hashAbsorb c x) else .error .invalidParameter := by
  cases c with
  | sha256 c =>
    rw [hashUpdate, shaUpdate_eq_ite, apply_ite (Except.map HashCtx.sha256)]
    rfl
  | sha512 c =>
    rw [hashUpdate, shaUpdate_eq_ite, apply_ite (Except.map HashCtx.sha512)]
    rfl

@[simp] theorem hashAbsorb_len (c : HashCtx) (x : Bits) : (hashAbsorb c x).len = c.len + x.length := by
  cases c <;> rfl

@[simp] theorem hashAbsorb_alg (c : HashCtx) (x : Bits) : (hashAbsorb c x).alg = c.alg := by cases c <;> rfl

@[simp] theorem hashFresh_len (alg : HashAlg) : (hashFresh alg).len = 0 := by cases alg <;> rfl

@[simp] theorem hashFresh_alg (alg : HashAlg) : (hashFresh alg).alg = alg := by cases alg <;> rfl

theorem hashAbsorb_hashAbsorb (c : HashCtx) (x y : Bits) :
    hashAbsorb (hashAbsorb c x) y = hashAbsorb c (x ++ y) := by
  cases c with
  | sha256 c => exact congrArg HashCtx.sha256 (shaAbsorb_shaAbsorb (by decide) c x y)
  | sha512 c => exact congrArg HashCtx.sha512 (shaAbsorb_shaAbsorb (by decide) c x y)

theorem hashOf_eq_hashFinish (alg : HashAlg) (m : Bits) :
    hashOf alg m = hashFinish (hashAbsorb (hashFresh alg) m) := by cases alg <;> rfl

/-! The commands (R212 to R215) -/

section
variable (s : State)

theorem exec_hashReset (a : HashIx) (alg : HashAlg) :
    exec (.hashReset a alg) s = .next ((s.setHash a (hashFresh alg)).succeed 0x30) := rfl

theorem exec_hashDigest (a b : BufIx) (alg : HashAlg) :
    exec (.hashDigest a b alg) s = .next (s.wrote 0x33 a (hashOf alg (s.bufAt b))) := rfl

variable {s}

theorem exec_hashUpdate_of_empty {a : HashIx} (h : s.hashAt a = none) (b : BufIx) :
    exec (.hashUpdate a b) s = .next (s.fail 0x31 .invalidState) := by
  show execHashUpdate a b s = _
  rw [execHashUpdate, h]
  rfl

theorem exec_hashUpdate_of_full {a : HashIx} {c : HashCtx} (h : s.hashAt a = some c) (b : BufIx) :
    exec (.hashUpdate a b) s =
      if c.len + (s.bufAt b).length < 2 ^ 64 then .next ((s.setHash a (hashAbsorb c (s.bufAt b))).succeed 0x31)
      else .next (s.fail 0x31 .invalidParameter) := by
  show execHashUpdate a b s = _
  rw [execHashUpdate, h]
  by_cases hlen : c.len + (s.bufAt b).length < 2 ^ 64
  · simp only [hashUpdate_eq_ite, if_pos hlen, finish_eq]
  · simp only [hashUpdate_eq_ite, if_neg hlen, raise_eq]

theorem exec_hashFinal_of_empty {e : HashIx} (h : s.hashAt e = none) (a : BufIx) :
    exec (.hashFinal a e) s = .next (s.failedTo 0x32 a .invalidState) := by
  show execHashFinal a e s = _
  rw [execHashFinal, h]
  rfl

theorem exec_hashFinal_of_full {e : HashIx} {c : HashCtx} (h : s.hashAt e = some c) (a : BufIx) :
    exec (.hashFinal a e) s =
      .next (((s.setBuf a (hashFinish c)).setHash e (hashFresh c.alg)).succeed 0x32) := by
  show execHashFinal a e s = _
  rw [execHashFinal, h]
  rfl

end

/-- Settles O27: by what the slot holds; `HASH.UPDATE` then by the length test. -/
theorem hashCommands : Obligations.HashCommands := by
  refine fun s => ⟨fun a alg => ?_, fun a b => ?_, fun a e => ?_, fun a b => exec_hashDigest s a b _,
    fun a b => exec_hashDigest s a b _⟩
  · rw [exec_hashReset]
    cases alg <;> rfl
  · split
    next hslot => exact exec_hashUpdate_of_empty hslot b
    next c hslot => exact exec_hashUpdate_of_full hslot b
    next c hslot => exact exec_hashUpdate_of_full hslot b
  · split
    next hslot => exact exec_hashFinal_of_empty hslot a
    next c hslot => exact exec_hashFinal_of_full hslot a
    next c hslot => exact exec_hashFinal_of_full hslot a

/-! A digest over several commands (R210): each command's end, as far as the next one reads it -/

theorem hashReset_effect (s : State) (h : HashIx) (alg : HashAlg) :
    ∃ t, exec (.hashReset h alg) s = .next t ∧ t.hashAt h = some (hashFresh alg) ∧ ∀ b, t.bufAt b = s.bufAt b :=
  ⟨_, exec_hashReset s h alg, by simp, fun _ => rfl⟩

theorem hashUpdate_effect {s : State} {h : HashIx} {c : HashCtx} (hc : s.hashAt h = some c) (b : BufIx)
    (hlen : c.len + (s.bufAt b).length < 2 ^ 64) :
    ∃ t, exec (.hashUpdate h b) s = .next t ∧ t.hashAt h = some (hashAbsorb c (s.bufAt b)) ∧
      ∀ b, t.bufAt b = s.bufAt b :=
  ⟨_, (exec_hashUpdate_of_full hc b).trans (if_pos hlen), by simp, fun _ => rfl⟩

theorem hashFinal_effect {s : State} {h : HashIx} {c : HashCtx} (hc : s.hashAt h = some c) (a : BufIx) :
    ∃ t, exec (.hashFinal a h) s = .next t ∧ t.bufAt a = hashFinish c ∧ t.hashAt h = some (hashFresh c.alg) :=
  ⟨_, exec_hashFinal_of_full hc a, by simp, by simp⟩

/-- Settles O45: absorbing is a law of contexts, and the four commands hand the context on from one to the next while no
buffer changes until the last. -/
theorem hashStreaming : Obligations.HashStreaming := by
  refine ⟨fun c x y => shaAbsorb_shaAbsorb (by decide) c x y, fun c x y => shaAbsorb_shaAbsorb (by decide) c x y,
    fun s h a b₁ b₂ alg hlen => ?_⟩
  obtain ⟨s₁, hs₁, hslot₁, hbuf₁⟩ := hashReset_effect s h alg
  obtain ⟨s₂, hs₂, hslot₂, hbuf₂⟩ := hashUpdate_effect hslot₁ b₁ (by rw [hashFresh_len, hbuf₁]; omega)
  obtain ⟨s₃, hs₃, hslot₃, -⟩ := hashUpdate_effect hslot₂ b₂
    (by rw [hashAbsorb_len, hashFresh_len, hbuf₂, hbuf₁, hbuf₁]; omega)
  obtain ⟨s₄, hs₄, hdigest, hslot₄⟩ := hashFinal_effect hslot₃ a
  refine ⟨s₁, s₂, s₃, s₄, hs₁, hs₂, hs₃, hs₄, ?_, by simpa using hslot₄⟩
  rw [hdigest, hbuf₂, hbuf₁, hbuf₁, hashAbsorb_hashAbsorb, hashOf_eq_hashFinish]

end Sys2Proof.Machine
end

section
/-! PBKDF2 cut into quanta (43_hmac_pbkdf2.md R240 to R245): the engine's state after any number of rounds, in closed
form. -/

namespace Sys2Proof.Machine

/-! One block, round by round (R235, R243) -/

/-- The operands of one derivation (R235). -/
structure Derivation where
  alg : HashAlg
  pw : Bits
  salt : Bits
  count : Nat
  length : Nat

/-- The PRF value of round `i` in block `k`; round 0 stands for the PRF's first argument (R235). -/
def Derivation.prf (d : Derivation) (k i : Nat) : Bits := (hmacOf d.alg d.pw)^[i] (d.salt ++ natToBits 32 k)

/-- The accumulator behind round `i`, `1 ≤ i`, of block `k` (R235). -/
def Derivation.acc (d : Derivation) (k i : Nat) : Bits := pbkdf2Rounds d.alg d.pw (i - 1) (d.prf k 1) (d.prf k 1)

theorem Derivation.prf_succ (d : Derivation) (k i : Nat) : d.prf k (i + 1) = hmacOf d.alg d.pw (d.prf k i) :=
  Function.iterate_succ_apply' _ _ _

theorem pbkdf2Rounds_length (alg : HashAlg) (pw : Bits) {n : Nat} : ∀ {u acc : Bits},
    acc.length = hashDigestBits alg → (pbkdf2Rounds alg pw n u acc).length = hashDigestBits alg := by
  induction n with
  | zero => exact id
  | succ n ih =>
    intro u acc hacc
    exact ih (by rw [xorBits_length, hacc, hmacOf_length, Nat.min_self])

/-- The last of the further rounds, split off. -/
theorem pbkdf2Rounds_succ (alg : HashAlg) (pw : Bits) {n : Nat} : ∀ {u acc : Bits},
    pbkdf2Rounds alg pw (n + 1) u acc = xorBits (pbkdf2Rounds alg pw n u acc) ((hmacOf alg pw)^[n + 1] u) := by
  induction n with
  | zero => exact rfl
  | succ n ih =>
    intro u acc
    exact ih

theorem Derivation.acc_succ (d : Derivation) (k : Nat) {i : Nat} (hi : 0 < i) :
    d.acc k (i + 1) = xorBits (d.acc k i) (d.prf k (i + 1)) := by
  obtain ⟨j, rfl⟩ := Nat.exists_eq_add_one.mpr hi
  exact pbkdf2Rounds_succ d.alg d.pw

theorem Derivation.acc_count (d : Derivation) (k : Nat) :
    d.acc k (max d.count 1) = pbkdf2Block d.alg d.pw d.salt d.count k := by
  rw [acc, show max d.count 1 - 1 = d.count - 1 by omega]
  rfl

/-! Whole blocks (R235) -/

@[simp] theorem pbkdf2Block_length (alg : HashAlg) (pw salt : Bits) (count k : Nat) :
    (pbkdf2Block alg pw salt count k).length = hashDigestBits alg := pbkdf2Rounds_length alg pw (hmacOf_length _ _ _)

/-- The output blocks `1 .. m`, joined (R235). -/
def pbkdf2Blocks (alg : HashAlg) (pw salt : Bits) (count m : Nat) : Bits :=
  (List.range' 1 m).flatMap (pbkdf2Block alg pw salt count)

theorem pbkdf2Of_eq_take (alg : HashAlg) (pw salt : Bits) (count n : Nat) :
    pbkdf2Of alg pw salt count n = (pbkdf2Blocks alg pw salt count (ceilDiv n (hashDigestBits alg))).take n := rfl

@[simp] theorem pbkdf2Blocks_length (alg : HashAlg) (pw salt : Bits) (count m : Nat) :
    (pbkdf2Blocks alg pw salt count m).length = hashDigestBits alg * m := by
  rw [pbkdf2Blocks, flatMap_length_const _ fun k _ => pbkdf2Block_length alg pw salt count k, List.length_range']

/-- Blocks are numbered from the front, so further ones change none of those there already are (R235). -/
theorem pbkdf2Blocks_add (alg : HashAlg) (pw salt : Bits) (count m k : Nat) :
    pbkdf2Blocks alg pw salt count (m + k) =
      pbkdf2Blocks alg pw salt count m ++ (List.range' (1 + m) k).flatMap (pbkdf2Block alg pw salt count) := by
  rw [pbkdf2Blocks, pbkdf2Blocks, ← List.range'_append_1, List.flatMap_append]

theorem pbkdf2Blocks_succ (alg : HashAlg) (pw salt : Bits) (count m : Nat) :
    pbkdf2Blocks alg pw salt count (m + 1) =
      pbkdf2Blocks alg pw salt count m ++ pbkdf2Block alg pw salt count (m + 1) := by
  rw [pbkdf2Blocks_add, List.range'_one, List.flatMap_singleton, Nat.add_comm 1 m]

theorem hashDigestBits_pos (alg : HashAlg) : 0 < hashDigestBits alg := by cases alg <;> decide

/-- `ceilDiv` counts the pieces that begin before the end. -/
theorem lt_ceilDiv_iff {n : Nat} (hn : 0 < n) (b m : Nat) : b < ceilDiv m n ↔ n * b < m := by
  rw [ceilDiv, ← Nat.succ_le_iff, Nat.le_div_iff_mul_le hn, Nat.succ_mul, Nat.mul_comm]
  omega

/-! The engine after a number of rounds (R243) -/

/-- The number of output blocks (R235). -/
def Derivation.blockCount (d : Derivation) : Nat := ceilDiv d.length (hashDigestBits d.alg)

/-- The number of rounds of the whole derivation (R243). -/
def Derivation.rounds (d : Derivation) : Nat := d.blockCount * max d.count 1

/-- The engine behind `b` whole blocks and `i` rounds of the next one. -/
def Derivation.engineAt (d : Derivation) (b i : Nat) : PbkEngine :=
  { state := if b < d.blockCount then .run else .done
    alg := d.alg, pw := d.pw, salt := d.salt, count := d.count, length := d.length, k := b + 1, i := i
    last := if i = 0 then [] else d.prf (b + 1) i
    acc := if i = 0 then [] else d.acc (b + 1) i
    out := pbkdf2Blocks d.alg d.pw d.salt d.count b }

/-- The engine after `t` rounds from the start of the derivation, each block taking `max(count, 1)` of them (R243). -/
def Derivation.engineAfter (d : Derivation) (t : Nat) : PbkEngine := d.engineAt (t / max d.count 1) (t % max d.count 1)

section
variable (d : Derivation)

theorem pbkStart_eq : pbkStart d.alg d.pw d.salt d.count d.length = d.engineAfter 0 := by
  have hstate : (0 < d.length) = (0 < d.blockCount) :=
    propext (lt_ceilDiv_iff (hashDigestBits_pos d.alg) 0 d.length).symm
  simp only [pbkStart, Derivation.engineAfter, Derivation.engineAt, Nat.zero_div, Nat.zero_mod, if_pos, hstate]
  rfl

theorem nextPrf_engineAt (b i : Nat) : nextPrf (d.engineAt b i) = d.prf (b + 1) (i + 1) := by
  rw [d.prf_succ]
  obtain rfl | hi := Nat.eq_zero_or_pos i
  · rfl
  · simp only [nextPrf, Derivation.engineAt, if_neg hi.ne']

theorem nextAcc_engineAt (b i : Nat) : nextAcc (d.engineAt b i) = d.acc (b + 1) (i + 1) := by
  rw [nextAcc, nextPrf_engineAt]
  obtain rfl | hi := Nat.eq_zero_or_pos i
  · rfl
  · simp only [Derivation.engineAt, if_neg hi.ne', d.acc_succ (b + 1) hi]

/-- A round that is not the last one of its block. -/
theorem pbkRound_engineAt_of_lt (b : Nat) {i : Nat} (hi : i + 1 < max d.count 1) :
    pbkRound (d.engineAt b i) = d.engineAt b (i + 1) := by
  rw [pbkRound_eq, nextPrf_engineAt, nextAcc_engineAt]
  exact if_neg (Nat.not_le_of_lt hi)

/-- The round that closes a block: the engine is done exactly if that was the last block. -/
theorem pbkRound_engineAt_of_eq {b i : Nat} (hb : b < d.blockCount) (hi : i + 1 = max d.count 1) :
    pbkRound (d.engineAt b i) = d.engineAt (b + 1) 0 := by
  have hout : (d.engineAt b i).out ++ nextAcc (d.engineAt b i) = pbkdf2Blocks d.alg d.pw d.salt d.count (b + 1) := by
    rw [nextAcc_engineAt, hi, d.acc_count, pbkdf2Blocks_succ]
    rfl
  have hmore : d.length ≤ hashDigestBits d.alg * (b + 1) ↔ ¬ b + 1 < d.blockCount := by
    rw [Derivation.blockCount, lt_ceilDiv_iff (hashDigestBits_pos d.alg), Nat.not_lt]
  rw [pbkRound_eq, hout, pbkdf2Blocks_length]
  simp only [Derivation.engineAt, if_pos hb, hi, le_refl, if_true, hmore, ite_not]

theorem max_count_pos : 0 < max d.count 1 := Nat.lt_of_lt_of_le Nat.one_pos (le_max_right _ _)

theorem engineAfter_state_eq_run (t : Nat) : (d.engineAfter t).state = .run ↔ t < d.rounds := by
  rw [Derivation.rounds, ← Nat.div_lt_iff_lt_mul (max_count_pos d), Derivation.engineAfter, Derivation.engineAt]
  split_ifs with h <;> simp [h]

theorem engineAfter_state_eq_done (t : Nat) : (d.engineAfter t).state = .done ↔ d.rounds ≤ t := by
  rw [← Nat.not_lt, ← engineAfter_state_eq_run, Derivation.engineAfter, Derivation.engineAt]
  split_ifs <;> simp

/-- One round is one round further, by whether it closes its block. -/
theorem pbkRound_engineAfter {t : Nat} (ht : t < d.rounds) : pbkRound (d.engineAfter t) = d.engineAfter (t + 1) := by
  have hb : t / max d.count 1 < d.blockCount := (Nat.div_lt_iff_lt_mul (max_count_pos d)).mpr ht
  have hi := Nat.mod_lt t (max_count_pos d)
  have hdiv := Nat.div_add_mod t (max d.count 1)
  rw [Derivation.engineAfter, Derivation.engineAfter]
  obtain hlt | heq := Nat.lt_or_eq_of_le (Nat.succ_le_of_lt hi)
  · obtain ⟨hq, hr⟩ := (Nat.div_mod_unique (max_count_pos d)).mpr
      ⟨show t % max d.count 1 + 1 + max d.count 1 * (t / max d.count 1) = t + 1 by omega, hlt⟩
    rw [pbkRound_engineAt_of_lt d _ hlt, hq, hr]
  · obtain ⟨hq, hr⟩ := (Nat.div_mod_unique (max_count_pos d)).mpr
      ⟨show 0 + max d.count 1 * (t / max d.count 1 + 1) = t + 1 by rw [Nat.mul_succ]; omega, max_count_pos d⟩
    rw [pbkRound_engineAt_of_eq d hb heq, hq, hr]

/-- A quantum runs its rounds, as far as the derivation has them (R242). -/
theorem pbkSteps_engineAfter (q : Nat) : ∀ {t : Nat}, t ≤ d.rounds →
    pbkSteps q (d.engineAfter t) = d.engineAfter (min (t + q) d.rounds) := by
  induction q with
  | zero =>
    intro t ht
    rw [Nat.add_zero, Nat.min_eq_left ht]
    rfl
  | succ q ih =>
    intro t ht
    unfold pbkSteps
    split
    next hrun =>
      have hlt := (engineAfter_state_eq_run d t).mp hrun
      rw [pbkRound_engineAfter d hlt, ih hlt, show t + 1 + q = t + (q + 1) by omega]
    next hstop =>
      have hge := Nat.le_of_not_lt (mt (engineAfter_state_eq_run d t).mpr hstop)
      rw [Nat.min_eq_right (by omega), Nat.le_antisymm ht hge]

/-- Quanta add up (R245). -/
theorem foldl_pbkSteps_engineAfter (quanta : List Nat) : ∀ {t : Nat}, t ≤ d.rounds →
    quanta.foldl (fun e q => pbkSteps q e) (d.engineAfter t) = d.engineAfter (min (t + quanta.sum) d.rounds) := by
  induction quanta with
  | nil =>
    intro t ht
    rw [List.sum_nil, Nat.add_zero, Nat.min_eq_left ht]
    rfl
  | cons q quanta ih =>
    intro t ht
    rw [List.foldl_cons, pbkSteps_engineAfter d q ht, ih (Nat.min_le_right _ _), List.sum_cons]
    congr 1
    omega

theorem engineAfter_rounds_out :
    (d.engineAfter d.rounds).out.take d.length = pbkdf2Of d.alg d.pw d.salt d.count d.length := by
  rw [pbkdf2Of_eq_take, Derivation.engineAfter, Derivation.rounds, Nat.mul_div_cancel _ (max_count_pos d)]
  rfl

theorem foldl_pbkSteps_pbkStart (quanta : List Nat) :
    quanta.foldl (fun e q => pbkSteps q e) (pbkStart d.alg d.pw d.salt d.count d.length) =
      d.engineAfter (min quanta.sum d.rounds) := by
  rw [pbkStart_eq, foldl_pbkSteps_engineAfter d quanta (Nat.zero_le _), Nat.zero_add]

/-- The engine after any number of rounds, cut at the derivation's: done when there are enough, and then with the
one-shot result (R240, R245). -/
theorem engineAfter_min_rounds (t : Nat) :
    ((d.engineAfter (min t d.rounds)).state = .done ↔ d.rounds ≤ t) ∧
    ((d.engineAfter (min t d.rounds)).state = .done → (d.engineAfter (min t d.rounds)).length = d.length ∧
      (d.engineAfter (min t d.rounds)).out.take d.length = pbkdf2Of d.alg d.pw d.salt d.count d.length) := by
  have hdone : (d.engineAfter (min t d.rounds)).state = .done ↔ d.rounds ≤ t := by
    rw [engineAfter_state_eq_done]
    omega
  refine ⟨hdone, fun h => ?_⟩
  rw [Nat.min_eq_right (hdone.mp h)]
  exact ⟨rfl, engineAfter_rounds_out d⟩

end

/-- Settles O49: quanta from the start lead to the closed form after their sum of rounds, cut at the derivation's
number of rounds. -/
theorem chunkedPbkdf2 : Obligations.ChunkedPbkdf2 := by
  intro alg pw salt count n quanta e
  have he : e = _ := foldl_pbkSteps_pbkStart ⟨alg, pw, salt, count, n⟩ quanta
  rw [he]
  exact engineAfter_min_rounds ⟨alg, pw, salt, count, n⟩ quanta.sum

end Sys2Proof.Machine
end

section
/-! HMAC and PBKDF2 as functions (43_hmac_pbkdf2.md R230 to R237), and the commands as equations of the next state
(R232, R238, R241, R242, R244). -/

namespace Sys2Proof.Machine

/-! Laws of the functions (R230, R231, R235, R237) -/

theorem hashDigestBits_le_hashBlockBits (alg : HashAlg) : hashDigestBits alg ≤ hashBlockBits alg := by
  cases alg <;> decide

/-- The digest of a long key is itself within the block, so it is not hashed again (R230). -/
theorem hmacKey_hashOf {alg : HashAlg} {key : Bits} (h : hashBlockBits alg < key.length) :
    hmacKey alg (hashOf alg key) = hmacKey alg key := by
  have hdigest : ¬ hashBlockBits alg < (hashOf alg key).length := by
    rw [hashOf_length, Nat.not_lt]
    exact hashDigestBits_le_hashBlockBits alg
  rw [hmacKey, hmacKey, if_pos h, if_neg hdigest]

theorem padr_append_zeros {x : Bits} {j n : Nat} (h : x.length + j ≤ n) : padr (x ++ zeros j) n = padr x n := by
  simp only [padr, zeros, List.append_assoc, List.length_append, List.length_replicate, List.replicate_append_replicate]
  rw [show j + (n - (x.length + j)) = n - x.length by omega]

theorem hmacKey_append_zeros {alg : HashAlg} {key : Bits} {j : Nat} (h : key.length + j ≤ hashBlockBits alg) :
    hmacKey alg (key ++ zeros j) = hmacKey alg key := by
  have hlong : (key ++ zeros j).length = key.length + j := by rw [List.length_append, zeros, List.length_replicate]
  rw [hmacKey, hmacKey, if_neg (by omega), if_neg (by omega), padr_append_zeros h]

/-- HMAC depends on its key through the key block only (R230). -/
theorem hmacOf_congr_key {alg : HashAlg} {key key' : Bits} (h : hmacKey alg key = hmacKey alg key') (m : Bits) :
    hmacOf alg key m = hmacOf alg key' m := by
  simp only [hmacOf, h]

/-- The blocks asked for hold at least the bits asked for. -/
theorem le_mul_ceilDiv {n : Nat} (hn : 0 < n) (m : Nat) : m ≤ n * ceilDiv m n :=
  Nat.le_of_not_lt (mt (lt_ceilDiv_iff hn (ceilDiv m n) m).mpr (Nat.lt_irrefl _))

theorem pbkdf2Of_length (alg : HashAlg) (pw salt : Bits) (count n : Nat) :
    (pbkdf2Of alg pw salt count n).length = n := by
  rw [pbkdf2Of_eq_take, List.length_take, pbkdf2Blocks_length,
    Nat.min_eq_left (le_mul_ceilDiv (hashDigestBits_pos alg) n)]

/-- The blocks of the shorter request are the first ones of the longer. -/
theorem pbkdf2Of_eq_take_pbkdf2Of (alg : HashAlg) (pw salt : Bits) (count : Nat) {m n : Nat} (h : m ≤ n) :
    pbkdf2Of alg pw salt count m = (pbkdf2Of alg pw salt count n).take m := by
  have hblocks : ceilDiv m (hashDigestBits alg) ≤ ceilDiv n (hashDigestBits alg) :=
    Nat.div_le_div_right (by omega)
  have hlong : m ≤ (pbkdf2Blocks alg pw salt count (ceilDiv m (hashDigestBits alg))).length := by
    rw [pbkdf2Blocks_length]
    exact le_mul_ceilDiv (hashDigestBits_pos alg) m
  obtain ⟨k, hk⟩ := Nat.exists_eq_add_of_le hblocks
  rw [pbkdf2Of_eq_take, pbkdf2Of_eq_take, List.take_take, Nat.min_eq_left h, hk, pbkdf2Blocks_add,
    List.take_append_of_le_length hlong]

/-- Settles O48: HMAC's clauses by the key block, PBKDF2's by its blocks. -/
theorem hmacAndPbkdf2Laws : Obligations.HmacAndPbkdf2Laws :=
  ⟨fun _ _ m h => (hmacOf_congr_key (hmacKey_hashOf h) m).symm,
    fun _ _ m _ h => hmacOf_congr_key (hmacKey_append_zeros h) m, pbkdf2Of_length,
    fun alg pw salt count _ _ => pbkdf2Of_eq_take_pbkdf2Of alg pw salt count, fun _ _ _ _ => rfl⟩

/-! The operands as signed words (R237, R238) -/

theorem sext32_neg_iff (v : Word) : sext32 v < 0 ↔ 2 ^ 31 ≤ v.toNat := by
  rw [sext32, BitVec.toInt_eq_toNat_cond]
  have hv := v.isLt
  split <;> omega

theorem sext32_toNat {v : Word} (h : v.toNat < 2 ^ 31) : (sext32 v).toNat = v.toNat := by
  rw [sext32, BitVec.toInt_eq_toNat_of_lt (by omega), Int.toNat_natCast]

/-- PBKDF2's checks, on the operands as natural numbers. -/
theorem pbkdf2Params_signedAt (s : State) (d e : ScalIx) :
    pbkdf2Params (s.signedAt d) (s.signedAt e) =
      if 2 ^ 31 ≤ s.natAt d ∨ 2 ^ 31 ≤ s.natAt e then .error .invalidParameter
      else if fitsBuf (s.natAt e) then .ok (s.natAt d, s.natAt e) else .error .bufferOverflow := by
  refine if_ctx_congr (or_congr (sext32_neg_iff _) (sext32_neg_iff _)) (fun _ => rfl) fun hsmall => ?_
  obtain ⟨hcount, hlength⟩ := not_or.mp hsmall
  rw [State.signedAt, State.signedAt, sext32_toNat (Nat.lt_of_not_le hcount), sext32_toNat (Nat.lt_of_not_le hlength)]
  rfl

/-! The commands -/

theorem padBlock_eq_ofBytes (alg : HashAlg) (b : Byte) :
    padBlock alg b = ofBytes (List.replicate (hashBlockBits alg / 8) b) := by
  rw [padBlock, ofBytes, List.flatMap_def, List.map_replicate]

section
variable (s : State)

theorem exec_hmac (a b c : BufIx) (alg : HashAlg) :
    exec (.hmac a b c alg) s = .next (s.wrote 0x40 a (hmacOf alg (s.bufAt b) (s.bufAt c))) := rfl

theorem exec_pbkdf2 (a b c : BufIx) (d e : ScalIx) (alg : HashAlg) :
    exec (.pbkdf2 a b c d e alg) s =
      if 2 ^ 31 ≤ s.natAt d ∨ 2 ^ 31 ≤ s.natAt e then .next (s.failedTo 0x41 a .invalidParameter)
      else if fitsBuf (s.natAt e) then
        .next (s.wrote 0x41 a (pbkdf2Of alg (s.bufAt b) (s.bufAt c) (s.natAt d) (s.natAt e)))
      else .next (s.failedTo 0x41 a .bufferOverflow) := by
  show execPbkdf2 a b c d e alg s = _
  rw [execPbkdf2, pbkdf2Params_signedAt]
  split_ifs <;> rfl

theorem exec_pbkdf2Init (b c : BufIx) (d e : ScalIx) (alg : HashAlg) :
    exec (.pbkdf2Init b c d e alg) s =
      if 2 ^ 31 ≤ s.natAt d ∨ 2 ^ 31 ≤ s.natAt e then .next (s.fail 0x42 .invalidParameter)
      else if fitsBuf (s.natAt e) then
        .next ((s.setPbk (pbkStart alg (s.bufAt b) (s.bufAt c) (s.natAt d) (s.natAt e))).succeed 0x42)
      else .next (s.fail 0x42 .bufferOverflow) := by
  show execPbkdf2Init b c d e alg s = _
  rw [execPbkdf2Init, pbkdf2Params_signedAt]
  split_ifs <;> rfl

theorem exec_pbkdf2Step (a b : ScalIx) :
    exec (.pbkdf2Step a b) s =
      if s.pbk.state = .idle then .next (s.fail 0x43 .invalidState)
      else
        .next (((s.setPbk (pbkSteps (s.natAt b) s.pbk)).setScal a
          (if (pbkSteps (s.natAt b) s.pbk).state = .done then 1 else 0)).succeed 0x43) := by
  show execPbkdf2Step a b s = _
  unfold execPbkdf2Step
  split
  next hidle => rw [if_pos hidle, raise_eq]
  next hbusy => rw [if_neg hbusy, finish_eq]

theorem exec_pbkdf2Read (a : BufIx) :
    exec (.pbkdf2Read a) s =
      if s.pbk.state = .done then
        .next (((s.setBuf a (s.pbk.out.take s.pbk.length)).setPbk PbkEngine.reset).succeed 0x44)
      else .next (s.failedTo 0x44 a .invalidState) := by
  show execPbkdf2Read a s = _
  unfold execPbkdf2Read
  split
  next hdone => rw [if_pos hdone, finish_eq, slice, List.drop_zero]
  next hgoing => rw [if_neg hgoing, raiseTo_eq]

end

/-- Settles O28: the pads of HMAC as bytes, PBKDF2 by its checks in order. -/
theorem macCommands : Obligations.MacCommands := by
  refine fun s => ⟨fun a b c alg => ?_, exec_pbkdf2 s⟩
  rw [exec_hmac, hmacOf, padBlock_eq_ofBytes, padBlock_eq_ofBytes]
  rfl

/-- Settles O29: `PBKDF2.INIT` by PBKDF2's checks, the others by the engine's phase. -/
theorem engineCommands : Obligations.EngineCommands :=
  fun s => ⟨exec_pbkdf2Init s, exec_pbkdf2Step s, exec_pbkdf2Read s⟩

end Sys2Proof.Machine
end

section
/-! The CBC mode (44_modes_cbc_ccm.md R261 to R266): strings of whole blocks, the chain and its inverse, the pad and its
validation, decryption as the inverse of encryption, and the commands as equations of the next state. -/

namespace Sys2Proof.Machine

/-! Strings of whole blocks -/

theorem blockOf_bvToBits (v : Block) : blockOf (bvToBits v) = v := by
  rw [blockOf_of_length (bvToBits_length v), bitsToBv_bvToBits]

theorem map_blockOf_blocks_flatMap_bvToBits (l : List Block) : (blocks (l.flatMap bvToBits)).map blockOf = l := by
  induction l with
  | nil => rfl
  | cons v l ih =>
    rw [List.flatMap_cons, blocks, splitEvery_append (by decide) (bvToBits_length v), List.map_cons, blockOf_bvToBits]
    exact congrArg (v :: ·) ih

theorem flatMap_bvToBits_map_blockOf_blocks {x : Bits} (hx : 128 ∣ x.length) :
    ((blocks x).map blockOf).flatMap bvToBits = x := by
  have hpiece : ∀ p ∈ blocks x, bvToBits (blockOf p) = p := by
    intro p hp
    have hlen := length_of_mem_splitEvery (by decide) hx p hp
    rw [blockOf_of_length hlen, bvToBits_bitsToBv hlen]
  rw [List.flatMap_map, List.flatMap_def, List.map_congr_left hpiece, List.map_id', flatten_blocks]

/-- No piece of a string of whole blocks is padded. -/
theorem map_blockOf_blocks {x : Bits} (hx : 128 ∣ x.length) :
    (blocks x).map blockOf = (splitEvery 128 x).map (bitsToBv 128) :=
  List.map_congr_left fun p hp => blockOf_of_length (length_of_mem_splitEvery (by decide) hx p hp)

theorem mul_blocks_length {x : Bits} (hx : 128 ∣ x.length) : 128 * (blocks x).length = x.length := by
  rw [blocks_length, ceilDiv]
  omega

/-! The chain (R262, R264) -/

theorem cbcChainDec_cbcChainEnc {f g : Block → Block} (h : ∀ x, g (f x) = x) (prev : Block) (l : List Block) :
    cbcChainDec g prev (cbcChainEnc f prev l) = l := by
  induction l generalizing prev with
  | nil => rfl
  | cons m ms ih =>
    rw [cbcChainEnc, cbcChainDec, h, ih, BitVec.xor_assoc, BitVec.xor_self, BitVec.xor_zero]

theorem length_flatMap_cbcChainEnc (f : Block → Block) (prev : Block) {x : Bits} (hx : 128 ∣ x.length) :
    ((cbcChainEnc f prev ((blocks x).map blockOf)).flatMap bvToBits).length = x.length := by
  rw [flatMap_bvToBits_length, cbcChainEnc_length, List.length_map, mul_blocks_length hx]

theorem length_flatMap_cbcChainDec (g : Block → Block) (prev : Block) {x : Bits} (hx : 128 ∣ x.length) :
    ((cbcChainDec g prev ((blocks x).map blockOf)).flatMap bvToBits).length = x.length := by
  rw [flatMap_bvToBits_length, cbcChainDec_length, List.length_map, mul_blocks_length hx]

/-! The pad (R262, R263) -/

theorem cbcPadded_length_eq {pt : Bits} (h : pt.length % 8 = 0) :
    (cbcPadded pt).length = 128 * (pt.length / 8 / 16 + 1) := by
  rw [cbcPadded_length]
  omega

theorem cbcPad_pos_le (n : Nat) : 1 ≤ cbcPad n ∧ cbcPad n ≤ 16 := by
  rw [cbcPad]
  omega

theorem cbcPadOf_append_replicate (bs : List Byte) {p : Nat} (hpos : 1 ≤ p) (hle : p ≤ 16) :
    cbcPadOf (ofBytes (bs ++ List.replicate p (BitVec.ofNat 8 p))) = some p := by
  have hbyte : (BitVec.ofNat 8 p).toNat = p := by
    rw [BitVec.toNat_ofNat]
    omega
  have hlast : (bs ++ List.replicate p (BitVec.ofNat 8 p)).getLastD 0 = BitVec.ofNat 8 p := by
    obtain ⟨q, rfl⟩ := Nat.exists_eq_add_of_le' hpos
    rw [List.replicate_succ', ← List.append_assoc, List.getLastD_concat]
  have hbytes : (bs ++ List.replicate p (BitVec.ofNat 8 p)).drop
      ((bs ++ List.replicate p (BitVec.ofNat 8 p)).length - p) = List.replicate p (BitVec.ofNat 8 p) := by
    rw [List.length_append, List.length_replicate, Nat.add_sub_cancel, List.drop_left]
  have hall : (List.replicate p (BitVec.ofNat 8 p)).all (fun b => b.toNat == p) = true := by
    simp [hbyte]
  rw [cbcPadOf, bytesOf_ofBytes, hlast, hbyte, hbytes]
  exact if_pos ⟨hpos, hle, hall⟩

theorem cbcPadOf_cbcPadded {pt : Bits} (h : pt.length % 8 = 0) :
    cbcPadOf (cbcPadded pt) = some (cbcPad (pt.length / 8)) := by
  obtain ⟨hpos, hle⟩ := cbcPad_pos_le (pt.length / 8)
  have hbytes : cbcPadded pt = ofBytes (bytesOf pt ++
      List.replicate (cbcPad (pt.length / 8)) (BitVec.ofNat 8 (cbcPad (pt.length / 8)))) := by
    rw [ofBytes, List.flatMap_append, ← ofBytes, ofBytes_bytesOf h]
    rfl
  rw [hbytes, cbcPadOf_append_replicate _ hpos hle]

/-- What is left of the padded plaintext without its pad. -/
theorem slice_cbcPadded (pt : Bits) :
    slice (cbcPadded pt) 0 ((cbcPadded pt).length - 8 * cbcPad (pt.length / 8)) = pt := by
  rw [cbcPadded_length, cbcPad, Nat.add_sub_cancel, slice, List.drop_zero, cbcPadded, List.take_left]

/-! Decryption undoes encryption (R266) -/

theorem not_wholeBytes_iff (x : Bits) : (!wholeBytes x) = true ↔ x.length % 8 ≠ 0 := by
  simp [wholeBytes]

theorem cbcChecks_eq_ok {iv adata : Bits} {u : Unit} (h : cbcChecks iv adata = .ok u) :
    adata.length = 0 ∧ iv.length = 128 := by
  unfold cbcChecks at h
  split_ifs at h with hadata hiv
  exact ⟨not_not.mp hadata, not_not.mp hiv⟩

/-- Encryption that succeeds passed the checks and wrote the chained blocks of the padded plaintext. -/
theorem cbcEncrypt_eq_ok {k : AesCtx} {pt iv adata ct : Bits} (h : cbcEncrypt k pt iv adata = .ok ct) :
    cbcChecks iv adata = .ok () ∧ pt.length % 8 = 0 ∧
      ct = (cbcChainEnc (aesEncrypt k) (blockOf iv) ((blocks (cbcPadded pt)).map blockOf)).flatMap bvToBits := by
  unfold cbcEncrypt at h
  split at h
  next => cases h
  next hchecks =>
    split at h
    next => cases h
    next hbytes =>
      refine ⟨hchecks, not_not.mp (mt (not_wholeBytes_iff pt).mpr hbytes), ?_⟩
      exact (Except.ok.inj (capacity_eq_ok h)).symm

/-- Decryption of a string of whole blocks that decrypts to a validly padded string. -/
theorem cbcDecrypt_eq_ok {k : AesCtx} {ct iv adata m : Bits} {p : Nat} (hchecks : cbcChecks iv adata = .ok ())
    (hpos : 0 < ct.length) (hblocks : 128 ∣ ct.length)
    (hm : (cbcChainDec (aesDecrypt k) (blockOf iv) ((blocks ct).map blockOf)).flatMap bvToBits = m)
    (hp : cbcPadOf m = some p) : cbcDecrypt k ct iv adata = .ok (slice m 0 (m.length - 8 * p)) := by
  have hguard : ¬ (ct.length = 0 ∨ ct.length % 128 ≠ 0) := by omega
  simp only [cbcDecrypt, hchecks, if_neg hguard, hm, hp]

/-- Settles O50: the chain of decryption undoes the chain of encryption, and the pad that encryption appended is the one
that decryption finds. -/
theorem cbcRoundTrip : Obligations.CbcRoundTrip := by
  intro k pt iv adata ct henc
  obtain ⟨hchecks, hbytes, rfl⟩ := cbcEncrypt_eq_ok henc
  have hpadded := cbcPadded_length_eq hbytes
  have hwhole : 128 ∣ (cbcPadded pt).length := Dvd.intro _ hpadded.symm
  have hlen := length_flatMap_cbcChainEnc (aesEncrypt k) (blockOf iv) hwhole
  rw [cbcDecrypt_eq_ok (m := cbcPadded pt) hchecks (by omega) (hlen ▸ hwhole) _ (cbcPadOf_cbcPadded hbytes),
    slice_cbcPadded]
  rw [map_blockOf_blocks_flatMap_bvToBits, cbcChainDec_cbcChainEnc (aesDecrypt_aesEncrypt k),
    flatMap_bvToBits_map_blockOf_blocks hwhole]

/-! The commands as equations of the next state (R261 to R264) -/

/-- A function that answers the error of its checks if there is one, and `x` if there is none (R260). -/
theorem eq_bind_of_checks {checks : Except Err Unit} {r x : Except Err Bits}
    (herror : ∀ e, checks = .error e → r = .error e) (hok : checks = .ok () → r = x) :
    r = checks.bind fun _ => x := by
  cases checks with
  | error e => exact herror e rfl
  | ok _ => exact hok rfl

theorem cbcChecks_bind (iv adata : Bits) (x : Except Err Bits) :
    ((cbcChecks iv adata).bind fun _ => x) =
      if adata.length ≠ 0 then .error .notSupported else if iv.length ≠ 128 then .error .invalidIV else x := by
  unfold cbcChecks
  split_ifs <;> rfl

theorem cbcEncrypt_eq_ite (k : AesCtx) (pt iv adata : Bits) :
    cbcEncrypt k pt iv adata =
      if adata.length ≠ 0 then .error .notSupported
      else if iv.length ≠ 128 then .error .invalidIV
      else if pt.length % 8 ≠ 0 then .error .invalidParameter
      else if fitsBuf (128 * (pt.length / 8 / 16 + 1)) then
        .ok ((cbcChainEnc (aesEncrypt k) (bitsToBv 128 iv)
          ((splitEvery 128 (cbcPadded pt)).map (bitsToBv 128))).flatMap bvToBits)
      else .error .bufferOverflow := by
  refine (eq_bind_of_checks (fun e he => by rw [cbcEncrypt, he]) fun hchecks => ?_).trans (cbcChecks_bind iv adata _)
  obtain ⟨-, hiv⟩ := cbcChecks_eq_ok hchecks
  rw [cbcEncrypt, hchecks]
  refine if_ctx_congr (not_wholeBytes_iff pt) (fun _ => rfl) fun hbytes => ?_
  have hpadded := cbcPadded_length_eq (not_not.mp hbytes)
  rw [capacity, hpadded, blockOf_of_length hiv, map_blockOf_blocks (Dvd.intro _ hpadded.symm)]

/-- The bytes of a string, each by its place. -/
theorem bytesOf_eq_map_byteAt {x : Bits} {n : Nat} (hx : x.length = 8 * n) :
    bytesOf x = (List.range n).map (byteAt x) := by
  have hcount : ceilDiv x.length 8 = n := by
    rw [ceilDiv]
    omega
  rw [bytesOf, splitEvery_eq_map_range (by decide), hcount, List.map_map]
  refine List.map_congr_left fun i _ => ?_
  rw [byteAt, slice_eq_take_drop, Nat.add_sub_cancel_left, Function.comp_apply]

/-- The last `p` of `n` values satisfy the test, counted from the last one back. -/
theorem all_drop_map_range_iff {α : Type} (f : Nat → α) (test : α → Bool) {n p : Nat} (h : p ≤ n) :
    (((List.range n).map f).drop (n - p)).all test = true ↔ ∀ j < p, test (f (n - 1 - j)) = true := by
  have hdrop : ((List.range n).map f).drop (n - p) = (List.range' (n - p) p).map f := by
    rw [← List.map_drop, List.range_eq_range', List.drop_range']
    simp [Nat.sub_sub_self h]
  rw [hdrop, List.all_map, List.all_eq_true]
  constructor
  · intro hall j hj
    exact hall _ (List.mem_range'_1.mpr (by omega))
  · intro hall i hi
    have hbounds := List.mem_range'_1.mp hi
    have htest := hall (n - 1 - i) (by omega)
    rwa [show n - 1 - (n - 1 - i) = i by omega] at htest

/-- The validation of every pad byte (R263), the bytes counted from the last one back. -/
theorem cbcPadOf_eq_ite {m : Bits} {n : Nat} (hm : m.length = 8 * n) (hn : 16 ≤ n) :
    cbcPadOf m =
      if 1 ≤ (byteAt m (n - 1)).toNat ∧ (byteAt m (n - 1)).toNat ≤ 16 ∧
          ∀ j < (byteAt m (n - 1)).toNat, (byteAt m (n - 1 - j)).toNat = (byteAt m (n - 1)).toNat then
        some (byteAt m (n - 1)).toNat
      else none := by
  have hlast : ((List.range n).map (byteAt m)).getLastD 0 = byteAt m (n - 1) := by
    obtain ⟨q, rfl⟩ := Nat.exists_eq_add_of_le' (show 1 ≤ n by omega)
    rw [List.range_succ, List.map_append, List.map_singleton, List.getLastD_concat, Nat.add_sub_cancel]
  simp only [cbcPadOf, bytesOf_eq_map_byteAt hm, hlast, List.length_map, List.length_range]
  refine if_congr (and_congr_right' (and_congr_right fun hle => ?_)) rfl rfl
  simpa using all_drop_map_range_iff (byteAt m) (fun b => b.toNat == (byteAt m (n - 1)).toNat) (hle.trans hn)

/-- The decrypted string before its pad is removed (R264). -/
def cbcDecrypted (k : AesCtx) (ct iv : Bits) : Bits :=
  (cbcChainDec (aesDecrypt k) (bitsToBv 128 iv) ((splitEvery 128 ct).map (bitsToBv 128))).flatMap bvToBits

theorem cbcDecrypt_eq_ite (k : AesCtx) (ct iv adata : Bits) :
    cbcDecrypt k ct iv adata =
      let n := ct.length / 8
      let m := cbcDecrypted k ct iv
      let p := (byteAt m (n - 1)).toNat
      if adata.length ≠ 0 then .error .notSupported
      else if iv.length ≠ 128 then .error .invalidIV
      else if ct.length = 0 ∨ ct.length % 128 ≠ 0 then .error .corruptPadding
      else if 1 ≤ p ∧ p ≤ 16 ∧ ∀ j < p, (byteAt m (n - 1 - j)).toNat = p then .ok (m.take (m.length - 8 * p))
      else .error .corruptPadding := by
  refine (eq_bind_of_checks (fun e he => by rw [cbcDecrypt, he]) fun hchecks => ?_).trans (cbcChecks_bind iv adata _)
  obtain ⟨-, hiv⟩ := cbcChecks_eq_ok hchecks
  rw [cbcDecrypt, hchecks]
  refine if_ctx_congr Iff.rfl (fun _ => rfl) fun hblocks => ?_
  have hwhole : 128 ∣ ct.length := by omega
  have hm : (cbcChainDec (aesDecrypt k) (blockOf iv) ((blocks ct).map blockOf)).flatMap bvToBits =
      cbcDecrypted k ct iv := by
    rw [cbcDecrypted, blockOf_of_length hiv, map_blockOf_blocks hwhole]
  have hlen : (cbcDecrypted k ct iv).length = 8 * (ct.length / 8) := by
    rw [← hm, length_flatMap_cbcChainDec _ _ hwhole]
    omega
  simp only [hm, cbcPadOf_eq_ite hlen (by omega)]
  split_ifs <;> rfl

section
variable (s : State) (a b c d : BufIx) (e : KeyIx)

theorem exec_cbcEnc :
    exec (.cbcEnc a b c d e) s =
      resultToBuf 0x50 a (withKey (s.keyAt e) fun k => cbcEncrypt k (s.bufAt b) (s.bufAt c) (s.bufAt d)) s := rfl

theorem exec_cbcDec :
    exec (.cbcDec a b c d e) s =
      resultToBuf 0x51 a (withKey (s.keyAt e) fun k => cbcDecrypt k (s.bufAt b) (s.bufAt c) (s.bufAt d)) s := rfl

end

/-- Settles O30: the slot is looked at first, then each function by its tests in order. -/
theorem cbcCommands : Obligations.CbcCommands := by
  refine fun s a b c d e => ⟨?_, ?_⟩
  · rw [exec_cbcEnc]
    cases s.keyAt e with
    | none => rfl
    | some k =>
      simp only [withKey, cbcEncrypt_eq_ite, resultToBuf_ite, resultToBuf_ok, resultToBuf_error]
      rfl
  · rw [exec_cbcDec]
    cases s.keyAt e with
    | none => rfl
    | some k =>
      simp only [withKey, cbcDecrypt_eq_ite, resultToBuf_ite, resultToBuf_ok, resultToBuf_error]
      rfl

end Sys2Proof.Machine
end

section
/-! The CCM mode (44_modes_cbc_ccm.md R270 to R279): counter mode as one sum with a key stream, decryption as the inverse
of encryption, and the commands as equations of the next state. -/

namespace Sys2Proof.Machine

/-! Sums of bit strings -/

theorem xorBits_xorBits {x y : Bits} (h : x.length ≤ y.length) : xorBits (xorBits x y) y = x := by
  induction x generalizing y with
  | nil => rfl
  | cons a x ih =>
    cases y with
    | nil => cases h
    | cons b y =>
      show ((a ^^ b) ^^ b) :: xorBits (xorBits x y) y = a :: x
      rw [ih (Nat.le_of_succ_le_succ h), Bool.xor_assoc, Bool.xor_self, Bool.xor_false]

/-- The sum with a string in two parts, part by part. -/
theorem xorBits_append_right (x p y : Bits) :
    xorBits x (p ++ y) = xorBits (x.take p.length) p ++ xorBits (x.drop p.length) y := by
  induction p generalizing x with
  | nil => rfl
  | cons b p ih =>
    cases x with
    | nil => rfl
    | cons a x => exact congrArg ((a ^^ b) :: ·) (ih x)

/-! Counter mode (R274) -/

/-- `n` blocks of key stream, of the counters from `i` on. -/
def keyStream (e : Nat → Block) (i n : Nat) : Bits := (List.range' i n).flatMap fun j => bvToBits (e j)

theorem keyStream_succ (e : Nat → Block) (i n : Nat) :
    keyStream e i (n + 1) = bvToBits (e i) ++ keyStream e (i + 1) n := by
  rw [keyStream, List.range'_succ, List.flatMap_cons, ← keyStream]

theorem keyStream_length (e : Nat → Block) (i n : Nat) : (keyStream e i n).length = 128 * n := by
  rw [keyStream, flatMap_length_const _ fun j _ => bvToBits_length (e j), List.length_range']

/-- The key stream for a string reaches to its end. -/
theorem length_le_keyStream_length (e : Nat → Block) (i : Nat) (x : Bits) :
    x.length ≤ (keyStream e i (blocks x).length).length := by
  rw [keyStream_length, blocks_length]
  exact le_mul_ceilDiv (by decide) x.length

/-- The block of key stream of counter `i` (R274). -/
def ccmStreamBlock (f : Block → Block) (nonce : Bits) (L i : Nat) : Block := f (blockOf (ccmA nonce L i))

theorem ccmCtrFrom_blocks (f : Block → Block) (nonce : Bits) (L i : Nat) (x : Bits) :
    ccmCtrFrom f nonce L i (blocks x) = xorBits x (keyStream (ccmStreamBlock f nonce L) i (blocks x).length) := by
  induction x using pieces_induction (n := 128) (by decide) generalizing i with
  | nil => rfl
  | piece x hx ih =>
    have hblocks : blocks x = x.take 128 :: blocks (x.drop 128) := splitEvery_of_ne_nil (by decide) hx
    rw [hblocks, ccmCtrFrom, ih, List.length_cons, keyStream_succ, xorBits_append_right, bvToBits_length]
    rfl

/-- Counter mode is the sum with the key stream from counter 1 on. -/
theorem ccmCtr_eq_xorBits (f : Block → Block) (nonce : Bits) (L : Nat) (x : Bits) :
    ccmCtr f nonce L x = xorBits x (keyStream (ccmStreamBlock f nonce L) 1 (blocks x).length) :=
  ccmCtrFrom_blocks f nonce L 1 x

theorem ccmCtr_length (f : Block → Block) (nonce : Bits) (L : Nat) (x : Bits) :
    (ccmCtr f nonce L x).length = x.length := by
  rw [ccmCtr_eq_xorBits, xorBits_length, Nat.min_eq_left (length_le_keyStream_length _ _ x)]

/-- The key stream depends on the length of the data only, so a second sum takes the first one back. -/
theorem ccmCtr_ccmCtr (f : Block → Block) (nonce : Bits) (L : Nat) (x : Bits) :
    ccmCtr f nonce L (ccmCtr f nonce L x) = x := by
  have hcount : (blocks (ccmCtr f nonce L x)).length = (blocks x).length := by
    rw [blocks_length, ccmCtr_length, blocks_length]
  rw [ccmCtr_eq_xorBits, hcount, ccmCtr_eq_xorBits, xorBits_xorBits (length_le_keyStream_length _ _ x)]

/-! The tag and its mask (R273, R274) -/

theorem ccmTag_length (f : Block → Block) (pt nonce adata : Bits) (L : Nat) {tlen : Nat} (h : tlen ≤ 128) :
    (ccmTag f pt nonce adata L tlen).length = tlen := by
  rw [ccmTag, List.length_take, bvToBits_length, Nat.min_eq_left h]

theorem ccmMask_length (f : Block → Block) (nonce : Bits) (L : Nat) {t : Bits} (h : t.length ≤ 128) :
    (ccmMask f nonce L t).length = t.length := by
  rw [ccmMask, xorBits_length, bvToBits_length, Nat.min_eq_left h]

theorem ccmMask_ccmMask (f : Block → Block) (nonce : Bits) (L : Nat) {t : Bits} (h : t.length ≤ 128) :
    ccmMask f nonce L (ccmMask f nonce L t) = t :=
  xorBits_xorBits (h.trans (bvToBits_length _).ge)

/-! The checks (R270) -/

theorem ccmChecks_eq_ite (data iv adata : Bits) (tlen : Nat) :
    ccmChecks data iv adata tlen =
      if iv.length % 8 ≠ 0 ∨ adata.length % 8 ≠ 0 ∨ data.length % 8 ≠ 0 then .error .invalidParameter
      else if iv.length < 56 then .error .invalidIV
      else if tlen < 32 ∨ 128 < tlen ∨ tlen % 16 ≠ 0 then .error .invalidParameter
      else .ok () := by
  have hbytes : (!(wholeBytes iv && wholeBytes adata && wholeBytes data)) = true ↔
      (iv.length % 8 ≠ 0 ∨ adata.length % 8 ≠ 0 ∨ data.length % 8 ≠ 0) := by
    simp only [Bool.not_and, Bool.or_eq_true, not_wholeBytes_iff, or_assoc]
  have htlen : (!(decide (32 ≤ tlen) && decide (tlen ≤ 128) && tlen % 16 == 0)) = true ↔
      (tlen < 32 ∨ 128 < tlen ∨ tlen % 16 ≠ 0) := by
    simp [or_assoc]
  exact if_congr hbytes rfl (if_congr Iff.rfl rfl (if_congr htlen rfl rfl))

theorem ccmChecks_eq_ok_iff {data iv adata : Bits} {tlen : Nat} :
    ccmChecks data iv adata tlen = .ok () ↔
      (iv.length % 8 = 0 ∧ adata.length % 8 = 0 ∧ data.length % 8 = 0) ∧ 56 ≤ iv.length ∧
        32 ≤ tlen ∧ tlen ≤ 128 ∧ tlen % 16 = 0 := by
  rw [ccmChecks_eq_ite]
  split_ifs <;> simp only [true_iff, false_iff] <;> omega

theorem ccmChecks_bind (data iv adata : Bits) (tlen : Nat) (x : Except Err Bits) :
    ((ccmChecks data iv adata tlen).bind fun _ => x) =
      if iv.length % 8 ≠ 0 ∨ adata.length % 8 ≠ 0 ∨ data.length % 8 ≠ 0 then .error .invalidParameter
      else if iv.length < 56 then .error .invalidIV
      else if tlen < 32 ∨ 128 < tlen ∨ tlen % 16 ≠ 0 then .error .invalidParameter
      else x := by
  rw [ccmChecks_eq_ite]
  split_ifs <;> rfl

/-! Decryption undoes encryption (R279) -/

/-- The message of R276: the enciphered data and the masked tag. -/
def ccmSealed (k : AesCtx) (pt iv adata : Bits) (tlen : Nat) : Bits :=
  let L := ccmL (iv.length / 8) (pt.length / 8)
  let nonce := ccmNonce iv L
  ccmCtr (aesEncrypt k) nonce L pt ++ ccmMask (aesEncrypt k) nonce L (ccmTag (aesEncrypt k) pt nonce adata L tlen)

theorem ccmEncrypt_eq_ok {k : AesCtx} {pt iv adata ct : Bits} {tlen : Nat} (h : ccmEncrypt k pt iv adata tlen = .ok ct) :
    ccmChecks pt iv adata tlen = .ok () ∧ pt.length / 8 < 2 ^ 32 ∧ ct = ccmSealed k pt iv adata tlen := by
  unfold ccmEncrypt at h
  split at h
  next => cases h
  next hchecks =>
    dsimp only at h
    split at h
    next => cases h
    next hol => exact ⟨hchecks, Nat.lt_of_not_le hol, (Except.ok.inj (capacity_eq_ok h)).symm⟩

/-- Decryption of a body and a tag that is the body's. -/
theorem ccmDecrypt_append {k : AesCtx} {c tag iv adata : Bits} {tlen L : Nat} {nonce : Bits}
    (hchecks : ccmChecks (c ++ tag) iv adata tlen = .ok ()) (htag : tag.length = tlen) (hol : c.length / 8 < 2 ^ 32)
    (hL : L = ccmL (iv.length / 8) (c.length / 8)) (hnonce : nonce = ccmNonce iv L)
    (hmask : ccmMask (aesEncrypt k) nonce L tag =
      ccmTag (aesEncrypt k) (ccmCtr (aesEncrypt k) nonce L c) nonce adata L tlen) :
    ccmDecrypt k (c ++ tag) iv adata tlen = .ok (ccmCtr (aesEncrypt k) nonce L c) := by
  have hlen : (c ++ tag).length = c.length + tlen := by rw [List.length_append, htag]
  subst hL hnonce
  rw [ccmDecrypt, hchecks]
  simp only [hlen, Nat.add_sub_cancel, List.take_left, List.drop_left]
  rw [if_neg (by omega), if_neg (by omega), if_pos hmask]

/-- Settles O51: the key stream is the same in both directions, the mask comes off the tag, and what is left is the tag
that decryption computes of the plaintext. -/
theorem ccmRoundTrip : Obligations.CcmRoundTrip := by
  intro k pt iv adata ct tlen henc
  obtain ⟨hchecks, hol, rfl⟩ := ccmEncrypt_eq_ok henc
  obtain ⟨⟨hiv, hadata, hpt⟩, hivlen, hmin, hmax, hmod⟩ := ccmChecks_eq_ok_iff.mp hchecks
  rw [ccmSealed]
  generalize hL : ccmL (iv.length / 8) (pt.length / 8) = L
  generalize hnonce : ccmNonce iv L = nonce
  have hbody := ccmCtr_length (aesEncrypt k) nonce L pt
  have htag := ccmTag_length (aesEncrypt k) pt nonce adata L hmax
  have hmask := ccmMask_length (aesEncrypt k) nonce L (htag.trans_le hmax)
  rw [ccmDecrypt_append (L := L) (nonce := nonce) (ccmChecks_eq_ok_iff.mpr ?_) (hmask.trans htag) (by omega)
    (by rw [hbody, hL]) hnonce.symm ?_, ccmCtr_ccmCtr]
  · rw [List.length_append]
    omega
  · rw [ccmCtr_ccmCtr, ccmMask_ccmMask _ _ _ (htag.trans_le hmax)]

/-! The commands as equations of the next state (R270, R276, R277) -/

theorem ccmEncrypt_eq_ite (k : AesCtx) (pt iv adata : Bits) (tlen : Nat) :
    ccmEncrypt k pt iv adata tlen =
      if iv.length % 8 ≠ 0 ∨ adata.length % 8 ≠ 0 ∨ pt.length % 8 ≠ 0 then .error .invalidParameter
      else if iv.length < 56 then .error .invalidIV
      else if tlen < 32 ∨ 128 < tlen ∨ tlen % 16 ≠ 0 then .error .invalidParameter
      else if 2 ^ 32 ≤ pt.length / 8 then .error .invalidParameter
      else if fitsBuf (pt.length + tlen) then .ok (ccmSealed k pt iv adata tlen)
      else .error .bufferOverflow := by
  refine (eq_bind_of_checks (fun e he => by rw [ccmEncrypt, he]) fun hchecks => ?_).trans
    (ccmChecks_bind pt iv adata tlen _)
  rw [ccmEncrypt, hchecks]
  rfl

theorem ccmDecrypt_eq_ite (k : AesCtx) (ct iv adata : Bits) (tlen : Nat) :
    ccmDecrypt k ct iv adata tlen =
      let c := ct.take (ct.length - tlen)
      let L := ccmL (iv.length / 8) (c.length / 8)
      let nonce := ccmNonce iv L
      let p := ccmCtr (aesEncrypt k) nonce L c
      if iv.length % 8 ≠ 0 ∨ adata.length % 8 ≠ 0 ∨ ct.length % 8 ≠ 0 then .error .invalidParameter
      else if iv.length < 56 then .error .invalidIV
      else if tlen < 32 ∨ 128 < tlen ∨ tlen % 16 ≠ 0 then .error .invalidParameter
      else if ct.length < tlen then .error .corruptTag
      else if 2 ^ 32 ≤ c.length / 8 then .error .invalidParameter
      else if ccmMask (aesEncrypt k) nonce L (ct.drop (ct.length - tlen)) =
          ccmTag (aesEncrypt k) p nonce adata L tlen then .ok p
      else .error .corruptTag := by
  refine (eq_bind_of_checks (fun e he => by rw [ccmDecrypt, he]) fun hchecks => ?_).trans
    (ccmChecks_bind ct iv adata tlen _)
  rw [ccmDecrypt, hchecks]

section
variable (s : State) (a b c d : BufIx) (e : KeyIx) (tl : Nat)

theorem exec_ccmEnc :
    exec (.ccmEnc a b c d e tl) s =
      resultToBuf 0x52 a
        (withKey (s.keyAt e) fun k => ccmEncrypt k (s.bufAt b) (s.bufAt c) (s.bufAt d) (16 * tl)) s := rfl

theorem exec_ccmDec :
    exec (.ccmDec a b c d e tl) s =
      resultToBuf 0x53 a
        (withKey (s.keyAt e) fun k => ccmDecrypt k (s.bufAt b) (s.bufAt c) (s.bufAt d) (16 * tl)) s := rfl

end

/-- The tag lengths that field `tl` can ask for (R102, R270). -/
theorem ccmTagBits_invalid_iff (tl : Nat) :
    (16 * tl < 32 ∨ 128 < 16 * tl ∨ 16 * tl % 16 ≠ 0) ↔ (tl < 2 ∨ 8 < tl) := by
  omega

/-- Settles O31: the slot is looked at first, then each function by its tests in order. -/
theorem ccmCommands : Obligations.CcmCommands := by
  refine fun s a b c d e tl => ⟨?_, ?_⟩
  · rw [exec_ccmEnc]
    cases s.keyAt e with
    | none => rfl
    | some k =>
      simp only [withKey, ccmEncrypt_eq_ite, ccmTagBits_invalid_iff, resultToBuf_ite, resultToBuf_ok,
        resultToBuf_error, ← or_assoc (a := tl < 2), ite_or (tl < 2 ∨ 8 < tl)]
      rfl
  · rw [exec_ccmDec]
    cases s.keyAt e with
    | none => rfl
    | some k =>
      simp only [withKey, ccmDecrypt_eq_ite, ccmTagBits_invalid_iff, resultToBuf_ite, resultToBuf_ok,
        resultToBuf_error]
      rfl

end Sys2Proof.Machine
end

section
/-! The OCB2 and GCM commands (45_modes_ocb2_gcm.md R290, R297, R298, R301, R309, R310) as equations of the next state. -/

namespace Sys2Proof.Machine

/-- The tag lengths that field `tl` can ask for (R102, R290, R301). -/
theorem not_isAeadTag_iff (tl : Nat) : (!isAeadTag (16 * tl)) = true ↔ tl ∉ [4, 6, 8] := by
  simp only [isAeadTag, Bool.not_eq_true', Bool.or_eq_false_iff, beq_eq_false_iff_ne, List.mem_cons, List.not_mem_nil,
    or_false, not_or]
  omega

/-! OCB2 (R290, R297, R298) -/

theorem ocbChecks_bind (iv : Bits) (tlen : Nat) (x : Except Err Bits) :
    ((ocbChecks iv tlen).bind fun _ => x) =
      if iv.length ≠ 128 then .error .invalidIV else if !isAeadTag tlen then .error .invalidParameter else x := by
  unfold ocbChecks
  split_ifs <;> rfl

theorem length_of_ocbChecks_eq_ok {iv : Bits} {tlen : Nat} {u : Unit} (h : ocbChecks iv tlen = .ok u) :
    iv.length = 128 := by
  unfold ocbChecks at h
  split_ifs at h with hiv
  exact not_not.mp hiv

theorem ocbEncrypt_eq_ite (k : AesCtx) (pt iv adata : Bits) (tlen : Nat) :
    ocbEncrypt k pt iv adata tlen =
      if iv.length ≠ 128 then .error .invalidIV
      else if !isAeadTag tlen then .error .invalidParameter
      else if fitsBuf (pt.length + tlen) then .ok (ocbSeal k pt iv adata tlen)
      else .error .bufferOverflow := by
  refine (eq_bind_of_checks (fun e he => by rw [ocbEncrypt, he]) fun hchecks => ?_).trans (ocbChecks_bind iv tlen _)
  rw [ocbEncrypt, hchecks]
  rfl

theorem ocbDecrypt_eq_ite (k : AesCtx) (ct iv adata : Bits) (tlen : Nat) :
    ocbDecrypt k ct iv adata tlen =
      let body := ct.take (ct.length - tlen)
      let r := ocbBulkDec (aesDecrypt k) (times2 (aesEncrypt k (bitsToBv 128 iv))) 0 (bulkOf body)
      let n := (finalOf body).length
      let x := ocbPad (aesEncrypt k) r.delta n ^^^ blockOf (finalOf body)
      if iv.length ≠ 128 then .error .invalidIV
      else if !isAeadTag tlen then .error .invalidParameter
      else if ct.length < tlen then .error .corruptTag
      else if (bvToBits (ocbTag (aesEncrypt k) r.delta (r.sum ^^^ x) adata)).take tlen = ct.drop (ct.length - tlen) then
        .ok (r.out.flatMap bvToBits ++ (bvToBits x).take n)
      else .error .corruptTag := by
  refine (eq_bind_of_checks (fun e he => by rw [ocbDecrypt, he]) fun hchecks => ?_).trans (ocbChecks_bind iv tlen _)
  rw [ocbDecrypt, hchecks, blockOf_of_length (length_of_ocbChecks_eq_ok hchecks)]

/-! GCM (R301, R309, R310) -/

theorem gcmChecks_bind (iv : Bits) (tlen : Nat) (x : Except Err Bits) :
    ((gcmChecks iv tlen).bind fun _ => x) =
      if !isAeadTag tlen then .error .invalidParameter else if iv.length = 0 then .error .invalidIV else x := by
  unfold gcmChecks
  split_ifs <;> rfl

theorem gcmEncrypt_eq_ite (k : AesCtx) (pt iv adata : Bits) (tlen : Nat) :
    gcmEncrypt k pt iv adata tlen =
      let h := aesEncrypt k 0
      let y := gcmCtr (aesEncrypt k) (gcmJ0 h iv) (blocks pt)
      if !isAeadTag tlen then .error .invalidParameter
      else if iv.length = 0 then .error .invalidIV
      else if fitsBuf (pt.length + tlen) then .ok (y ++ gcmTag (aesEncrypt k) h (gcmJ0 h iv) adata y tlen)
      else .error .bufferOverflow := by
  refine (eq_bind_of_checks (fun e he => by rw [gcmEncrypt, he]) fun hchecks => ?_).trans (gcmChecks_bind iv tlen _)
  rw [gcmEncrypt, hchecks]
  rfl

theorem gcmDecrypt_eq_ite (k : AesCtx) (ct iv adata : Bits) (tlen : Nat) :
    gcmDecrypt k ct iv adata tlen =
      let h := aesEncrypt k 0
      let body := ct.take (ct.length - tlen)
      if !isAeadTag tlen then .error .invalidParameter
      else if iv.length = 0 then .error .invalidIV
      else if ct.length < tlen then .error .corruptTag
      else if gcmTag (aesEncrypt k) h (gcmJ0 h iv) adata body tlen = ct.drop (ct.length - tlen) then
        .ok (gcmCtr (aesEncrypt k) (gcmJ0 h iv) (blocks body))
      else .error .corruptTag := by
  refine (eq_bind_of_checks (fun e he => by rw [gcmDecrypt, he]) fun hchecks => ?_).trans (gcmChecks_bind iv tlen _)
  rw [gcmDecrypt, hchecks]

/-! The commands -/

section
variable (s : State) (a b c d : BufIx) (e : KeyIx) (tl : Nat)

theorem exec_ocb2Enc :
    exec (.ocb2Enc a b c d e tl) s =
      resultToBuf 0x54 a
        (withKey (s.keyAt e) fun k => ocbEncrypt k (s.bufAt b) (s.bufAt c) (s.bufAt d) (16 * tl)) s := rfl

theorem exec_ocb2Dec :
    exec (.ocb2Dec a b c d e tl) s =
      resultToBuf 0x55 a
        (withKey (s.keyAt e) fun k => ocbDecrypt k (s.bufAt b) (s.bufAt c) (s.bufAt d) (16 * tl)) s := rfl

theorem exec_gcmEnc :
    exec (.gcmEnc a b c d e tl) s =
      resultToBuf 0x56 a
        (withKey (s.keyAt e) fun k => gcmEncrypt k (s.bufAt b) (s.bufAt c) (s.bufAt d) (16 * tl)) s := rfl

theorem exec_gcmDec :
    exec (.gcmDec a b c d e tl) s =
      resultToBuf 0x57 a
        (withKey (s.keyAt e) fun k => gcmDecrypt k (s.bufAt b) (s.bufAt c) (s.bufAt d) (16 * tl)) s := rfl

end

/-- Settles O32: the slot is looked at first, then each function by its tests in order. -/
theorem ocb2Commands : Obligations.Ocb2Commands := by
  refine fun s a b c d e tl => ⟨?_, ?_⟩
  · rw [exec_ocb2Enc]
    cases s.keyAt e with
    | none => rfl
    | some k =>
      simp only [withKey, ocbEncrypt_eq_ite, not_isAeadTag_iff, resultToBuf_ite, resultToBuf_ok, resultToBuf_error]
  · rw [exec_ocb2Dec]
    cases s.keyAt e with
    | none => rfl
    | some k =>
      simp only [withKey, ocbDecrypt_eq_ite, not_isAeadTag_iff, resultToBuf_ite, resultToBuf_ok, resultToBuf_error]
      rfl

/-- Settles O33: the slot is looked at first, then each function by its tests in order. -/
theorem gcmCommands : Obligations.GcmCommands := by
  refine fun s a b c d e tl => ⟨?_, ?_⟩
  · rw [exec_gcmEnc]
    cases s.keyAt e with
    | none => rfl
    | some k =>
      simp only [withKey, gcmEncrypt_eq_ite, not_isAeadTag_iff, resultToBuf_ite, resultToBuf_ok, resultToBuf_error]
  · rw [exec_gcmDec]
    cases s.keyAt e with
    | none => rfl
    | some k =>
      simp only [withKey, gcmDecrypt_eq_ite, not_isAeadTag_iff, resultToBuf_ite, resultToBuf_ok, resultToBuf_error]

end Sys2Proof.Machine
end

section
/-! The products of OCB2 and GCM in GF(2^128) (45_modes_ocb2_gcm.md R291, R302). -/

namespace Sys2Proof.Machine

/-! Masks: a word that is added when a bit is set -/

/-- The word `m` when the bit is set, and 0 when it is not. -/
def maskIf (b : Bool) (m : Block) : Block := if b then m else 0

theorem xor_maskIf (x m : Block) (b : Bool) : x ^^^ maskIf b m = if b then x ^^^ m else x := by
  cases b <;> simp [maskIf]

theorem maskIf_xor_left (a b : Bool) (m : Block) : maskIf (a ^^ b) m = maskIf a m ^^^ maskIf b m := by
  cases a <;> cases b <;> simp [maskIf]

theorem maskIf_xor_right (b : Bool) (m n : Block) : maskIf b (m ^^^ n) = maskIf b m ^^^ maskIf b n := by
  cases b <;> simp [maskIf]

/-! Doubling (R291) -/

theorem times2_eq (x : Block) : times2 x = x <<< 1 ^^^ maskIf (x.getMsbD 0) 0x87 := (xor_maskIf _ _ _).symm

theorem times2_xor (x y : Block) : times2 (x ^^^ y) = times2 x ^^^ times2 y := by
  rw [times2_eq, times2_eq, times2_eq, BitVec.getMsbD_xor, maskIf_xor_left, BitVec.shiftLeft_xor_distrib,
    bitVec_xor_xor_xor_comm]

/-! The multiplicand times the variable, which stands one bit further right (R302) -/

/-- The shifted multiplicand of R302. -/
def gfShift (v : Block) : Block := v >>> 1 ^^^ maskIf (v.getLsbD 0) ((0xE1#8) ++ (0#120))

theorem gfShift_xor (v w : Block) : gfShift (v ^^^ w) = gfShift v ^^^ gfShift w := by
  rw [gfShift, gfShift, gfShift, BitVec.getLsbD_xor, maskIf_xor_left, BitVec.ushiftRight_xor_distrib,
    bitVec_xor_xor_xor_comm]

theorem iterate_gfShift_xor (n : Nat) (v w : Block) : gfShift^[n] (v ^^^ w) = gfShift^[n] v ^^^ gfShift^[n] w := by
  induction n with
  | zero => rfl
  | succ n ih => rw [Function.iterate_succ_apply', ih, gfShift_xor, Function.iterate_succ_apply',
      Function.iterate_succ_apply']

theorem gfStep_eq (x z v : Block) (i : Nat) : gfStep x (z, v) i = (z ^^^ maskIf (x.getMsbD i) v, gfShift v) := by
  rw [gfStep, xor_maskIf, gfShift, xor_maskIf]

/-! The product as a sum of shifted multiplicands -/

/-- The sum of the multiplicands that the first `n` bits of `x` select. -/
def gfSum (x y : Block) : Nat → Block
  | 0 => 0
  | n + 1 => gfSum x y n ^^^ maskIf (x.getMsbD n) (gfShift^[n] y)

theorem foldl_gfStep_range (x y : Block) (n : Nat) :
    (List.range n).foldl (gfStep x) (0, y) = (gfSum x y n, gfShift^[n] y) := by
  induction n with
  | zero => rfl
  | succ n ih =>
    rw [List.range_succ, List.foldl_append, ih, List.foldl_cons, List.foldl_nil, gfStep_eq,
      ← Function.iterate_succ_apply' gfShift]
    rfl

theorem gfMul_eq_gfSum (x y : Block) : gfMul x y = gfSum x y 128 := by rw [gfMul, foldl_gfStep_range]

theorem gfSum_xor_left (x y z : Block) (n : Nat) : gfSum (x ^^^ y) z n = gfSum x z n ^^^ gfSum y z n := by
  induction n with
  | zero => exact (BitVec.xor_self (x := (0 : Block))).symm
  | succ n ih => rw [gfSum, ih, BitVec.getMsbD_xor, maskIf_xor_left, bitVec_xor_xor_xor_comm, gfSum, gfSum]

theorem gfSum_xor_right (x y z : Block) (n : Nat) : gfSum x (y ^^^ z) n = gfSum x y n ^^^ gfSum x z n := by
  induction n with
  | zero => exact (BitVec.xor_self (x := (0 : Block))).symm
  | succ n ih => rw [gfSum, ih, iterate_gfShift_xor, maskIf_xor_right, bitVec_xor_xor_xor_comm, gfSum, gfSum]

/-! The identity `80 00…00` -/

/-- The string `80 00…00` (R302). -/
def gfOne : Block := 1#128 <<< 127

theorem natCast_eq_gfOne : ((1 <<< 127 : Nat) : Block) = gfOne := rfl

theorem getMsbD_gfOne (i : Nat) : gfOne.getMsbD i = decide (i = 0) := by
  rw [gfOne, BitVec.getMsbD_shiftLeft, BitVec.getMsbD_one]
  simp

/-- Only the first multiplicand is selected. -/
theorem gfSum_gfOne_left (x : Block) (n : Nat) : gfSum gfOne x (n + 1) = x := by
  induction n with
  | zero => simp [gfSum, getMsbD_gfOne, maskIf]
  | succ n ih => rw [gfSum, ih, getMsbD_gfOne, xor_maskIf, if_neg (by simp)]

theorem getMsbD_gfOne_ushiftRight {n : Nat} (i : Nat) (h : n < 128) :
    (gfOne >>> n).getMsbD i = decide (i = n) := by
  rw [BitVec.getMsbD_ushiftRight, getMsbD_gfOne, Bool.eq_iff_iff]
  simp only [Bool.and_eq_true, Bool.not_eq_true', decide_eq_true_eq, decide_eq_false_iff_not]
  omega

/-- The one bit of the identity moves right and stays in the word for 127 steps. -/
theorem iterate_gfShift_gfOne {n : Nat} (h : n ≤ 127) : gfShift^[n] gfOne = gfOne >>> n := by
  induction n with
  | zero => rfl
  | succ n ih =>
    have hlsb : (gfOne >>> n).getLsbD 0 = false := by
      rw [BitVec.getLsbD_eq_getMsbD, getMsbD_gfOne_ushiftRight _ (by omega), decide_eq_false (p := 128 - 1 - 0 = n)
        (by omega), Bool.and_false]
    rw [Function.iterate_succ_apply', ih (by omega), gfShift, hlsb, xor_maskIf, BitVec.shiftRight_add]
    rfl

/-- The multiplicands that the first `n` bits select are these bits, each in its place. -/
theorem getMsbD_gfSum_gfOne_right (x : Block) (i : Nat) {n : Nat} (h : n ≤ 128) :
    (gfSum x gfOne n).getMsbD i = (decide (i < n) && x.getMsbD i) := by
  induction n with
  | zero => simp [gfSum, BitVec.getMsbD]
  | succ n ih =>
    have hmask : (maskIf (x.getMsbD n) (gfOne >>> n)).getMsbD i = (x.getMsbD n && decide (i = n)) := by
      rw [← getMsbD_gfOne_ushiftRight i h]
      cases x.getMsbD n <;> simp [maskIf]
    rw [gfSum, BitVec.getMsbD_xor, ih (by omega), iterate_gfShift_gfOne (by omega), hmask]
    rcases Nat.lt_trichotomy i n with hlt | rfl | hgt
    · simp [hlt, hlt.ne, hlt.trans (Nat.lt_succ_self n)]
    · simp
    · simp [hgt.ne', show ¬ i < n by omega, show ¬ i < n + 1 by omega]

theorem gfMul_gfOne_left (x : Block) : gfMul gfOne x = x := by rw [gfMul_eq_gfSum, gfSum_gfOne_left]

theorem gfMul_gfOne_right (x : Block) : gfMul x gfOne = x := by
  rw [gfMul_eq_gfSum]
  refine BitVec.eq_of_getMsbD_eq fun i hi => ?_
  rw [getMsbD_gfSum_gfOne_right x i le_rfl, decide_eq_true hi, Bool.true_and]

/-- Settles O54: the product is a sum of multiplicands, linear in what selects them and in what they are shifted from;
the check values by evaluation. -/
theorem fieldLaws : Obligations.FieldLaws := by
  refine ⟨fun x => ?_, fun x y z => ?_, times2_xor, ?_⟩
  · rw [natCast_eq_gfOne]
    exact ⟨gfMul_gfOne_left x, gfMul_gfOne_right x⟩
  · simp only [gfMul_eq_gfSum]
    exact ⟨gfSum_xor_left x y z 128, gfSum_xor_right x y z 128⟩
  · decide +kernel

end Sys2Proof.Machine
end

section
/-! OCB2 and GCM decryption as the inverse of encryption (45_modes_ocb2_gcm.md R296, R298, R307, R309, R310, R312). -/

namespace Sys2Proof.Machine

/-! Sums of blocks as sums of strings -/

theorem natToBits_xor (n u v : Nat) : natToBits n (u ^^^ v) = xorBits (natToBits n u) (natToBits n v) := by
  induction n with
  | zero => rfl
  | succ n ih =>
    rw [natToBits, Nat.testBit_xor, ih]
    rfl

theorem bvToBits_xor {n : Nat} (u v : BitVec n) : bvToBits (u ^^^ v) = xorBits (bvToBits u) (bvToBits v) := by
  rw [bvToBits, BitVec.toNat_xor, natToBits_xor]
  rfl

/-- What is appended to one string adds nothing to the bits before it. -/
theorem take_xorBits_append (x z y : Bits) : (xorBits (x ++ z) y).take x.length = xorBits x y := by
  induction x generalizing y with
  | nil => rfl
  | cons a x ih =>
    cases y with
    | nil => rfl
    | cons b y => exact congrArg ((a ^^ b) :: ·) (ih y)

theorem bvToBits_blockOf {x : Bits} (h : x.length ≤ 128) : bvToBits (blockOf x) = padr x 128 :=
  bvToBits_bitsToBv (by rw [padr_length, Nat.max_eq_right h])

/-- A block sum cut to the length of a padded string is the sum with that string. -/
theorem take_blockOf_xor {x : Bits} (h : x.length ≤ 128) (v : Block) :
    (bvToBits (blockOf x ^^^ v)).take x.length = xorBits x (bvToBits v) := by
  rw [bvToBits_xor, bvToBits_blockOf h, padr, take_xorBits_append]

/-! The tag at the end of a message (R290, R301) -/

theorem le_of_isAeadTag {tlen : Nat} (h : isAeadTag tlen = true) : tlen ≤ 128 := by
  simp only [isAeadTag, Bool.or_eq_true, beq_iff_eq] at h
  omega

theorem length_take_bvToBits_of_isAeadTag {tlen : Nat} (h : isAeadTag tlen = true) (v : Block) :
    ((bvToBits v).take tlen).length = tlen :=
  List.length_take_of_le ((le_of_isAeadTag h).trans (bvToBits_length v).ge)

theorem length_append_sub {c tag : Bits} {tlen : Nat} (htag : tag.length = tlen) :
    (c ++ tag).length - tlen = c.length := by
  rw [List.length_append, htag, Nat.add_sub_cancel]

theorem not_length_append_lt {c tag : Bits} {tlen : Nat} (htag : tag.length = tlen) : ¬ (c ++ tag).length < tlen := by
  rw [List.length_append, htag]
  omega

/-! OCB2: the bulk and the final block (R294, R296, R298) -/

theorem ocbBulkDec_ocbBulkEnc {f g : Block → Block} (h : ∀ x, g (f x) = x) (delta sum : Block) (l : List Block) :
    ocbBulkDec g delta sum (ocbBulkEnc f delta sum l).out = { ocbBulkEnc f delta sum l with out := l } := by
  induction l generalizing delta sum with
  | nil => rfl
  | cons m ms ih =>
    have hblock : delta ^^^ g (delta ^^^ (delta ^^^ f (delta ^^^ m))) = m := by
      rw [xor_cancel_left, h, xor_cancel_left]
    rw [ocbBulkEnc, ocbBulkDec, hblock, ih]

theorem bulkBits_le (n : Nat) : bulkBits n ≤ n := by
  rw [bulkBits]
  omega

theorem length_finalOf_le (x : Bits) : (finalOf x).length ≤ 128 := by
  rw [finalOf, List.length_drop, bulkBits]
  omega

/-- A final block under a pad keeps its length, and a second sum with the pad takes the first one back. -/
theorem finalBlock_pad_cancels {x c : Bits} {pad : Block} (h : x.length ≤ 128)
    (hc : (bvToBits (blockOf x ^^^ pad)).take x.length = c) :
    c.length = x.length ∧ (bvToBits (blockOf c ^^^ pad)).take c.length = x := by
  rw [take_blockOf_xor h] at hc
  have hclen : c.length = x.length := by rw [← hc, xorBits_length, bvToBits_length, Nat.min_eq_left h]
  refine ⟨hclen, ?_⟩
  rw [take_blockOf_xor (hclen.trans_le h), ← hc, xorBits_xorBits (h.trans (bvToBits_length pad).ge)]

theorem flatMap_bulkOf_append_finalOf (x : Bits) : (bulkOf x).flatMap bvToBits ++ finalOf x = x := by
  have hwhole : 128 ∣ (x.take (bulkBits x.length)).length := by
    rw [List.length_take_of_le (bulkBits_le x.length), bulkBits]
    exact Nat.dvd_mul_right _ _
  rw [bulkOf, flatMap_bvToBits_map_blockOf_blocks hwhole, finalOf, List.take_append_drop]

/-- Blocks and a rest are bulk and final block of what they make up when their lengths are those of a split. -/
theorem split_flatMap_append {l : List Block} {c x : Bits} (hl : l.length = (bulkOf x).length)
    (hc : c.length = (finalOf x).length) :
    bulkOf (l.flatMap bvToBits ++ c) = l ∧ finalOf (l.flatMap bvToBits ++ c) = c := by
  have hx := bulkOf_finalOf_length x
  have hlen : (l.flatMap bvToBits ++ c).length = x.length := by
    rw [List.length_append, flatMap_bvToBits_length, hl, hc, hx]
  have hfinal : (finalOf x).length = x.length - bulkBits x.length := List.length_drop
  have hbulk : bulkBits (l.flatMap bvToBits ++ c).length = (l.flatMap bvToBits).length := by
    have hle := bulkBits_le x.length
    rw [hlen, flatMap_bvToBits_length]
    omega
  rw [bulkOf, finalOf, hbulk, List.take_left, List.drop_left, map_blockOf_blocks_flatMap_bvToBits]
  exact ⟨rfl, rfl⟩

/-! OCB2 decryption undoes encryption (R312) -/

theorem ocbEncrypt_eq_ok {k : AesCtx} {pt iv adata ct : Bits} {tlen : Nat}
    (h : ocbEncrypt k pt iv adata tlen = .ok ct) :
    ocbChecks iv tlen = .ok () ∧ ct = ocbSeal k pt iv adata tlen := by
  unfold ocbEncrypt at h
  split at h
  next => cases h
  next hchecks => exact ⟨hchecks, (Except.ok.inj (capacity_eq_ok h)).symm⟩

theorem isAeadTag_of_ocbChecks {iv : Bits} {tlen : Nat} (h : ocbChecks iv tlen = .ok ()) : isAeadTag tlen = true := by
  unfold ocbChecks at h
  split_ifs at h with _ htag
  simpa using htag

/-- Decryption of bulk blocks `l`, a final block `c` and the tag of what they decrypt to. -/
theorem ocbDecrypt_append {k : AesCtx} {l : List Block} {c tag iv adata : Bits} {tlen : Nat} {r : OcbBulk} {x : Block}
    (hchecks : ocbChecks iv tlen = .ok ()) (hlen : tag.length = tlen)
    (hsplit : bulkOf (l.flatMap bvToBits ++ c) = l ∧ finalOf (l.flatMap bvToBits ++ c) = c)
    (hr : ocbBulkDec (aesDecrypt k) (times2 (aesEncrypt k (blockOf iv))) 0 l = r)
    (hx : ocbPad (aesEncrypt k) r.delta c.length ^^^ blockOf c = x)
    (htag : (bvToBits (ocbTag (aesEncrypt k) r.delta (r.sum ^^^ x) adata)).take tlen = tag) :
    ocbDecrypt k (l.flatMap bvToBits ++ c ++ tag) iv adata tlen =
      .ok (r.out.flatMap bvToBits ++ (bvToBits x).take c.length) := by
  obtain ⟨hbulk, hfinal⟩ := hsplit
  rw [ocbDecrypt, hchecks]
  simp only [if_neg (not_length_append_lt hlen), length_append_sub hlen, List.take_left, List.drop_left, hbulk, hfinal,
    hr, hx, if_pos htag]

/-- Settles O52: the bulk blocks come back one by one, the final block because the pad is summed in twice, and the tag
is then taken over the same offset and checksum. -/
theorem ocb2RoundTrip : Obligations.Ocb2RoundTrip := by
  intro k pt iv adata ct tlen henc
  obtain ⟨hchecks, rfl⟩ := ocbEncrypt_eq_ok henc
  rw [ocbSeal]
  generalize hr : ocbBulkEnc (aesEncrypt k) (times2 (aesEncrypt k (blockOf iv))) 0 (bulkOf pt) = r
  generalize hpad : ocbPad (aesEncrypt k) r.delta (finalOf pt).length = pad
  generalize hc : (bvToBits (blockOf (finalOf pt) ^^^ pad)).take (finalOf pt).length = c
  obtain ⟨hclen, hback⟩ := finalBlock_pad_cancels (length_finalOf_le pt) hc
  have hbulk := ocbBulkDec_ocbBulkEnc (aesDecrypt_aesEncrypt k) (times2 (aesEncrypt k (blockOf iv))) 0 (bulkOf pt)
  have hlen := ocbBulkEnc_out_length (aesEncrypt k) (times2 (aesEncrypt k (blockOf iv))) 0 (bulkOf pt)
  rw [hr] at hbulk hlen
  rw [ocbDecrypt_append hchecks (length_take_bvToBits_of_isAeadTag (isAeadTag_of_ocbChecks hchecks) _)
    (split_flatMap_append hlen hclen) hbulk (x := blockOf c ^^^ pad) (by rw [hclen, hpad, BitVec.xor_comm]) rfl, hback]
  exact congrArg Except.ok (flatMap_bulkOf_append_finalOf pt)

/-! GCM: counter mode is the sum with a key stream (R305, R307) -/

/-- The `i`-th block of key stream after the counter block `ctr` (R307). -/
def gcmStreamBlock (f : Block → Block) (ctr : Block) (i : Nat) : Block := f (inc32^[i] ctr)

theorem gcmCtr_blocks_iterate (f : Block → Block) (ctr : Block) (i : Nat) (x : Bits) :
    gcmCtr f (inc32^[i] ctr) (blocks x) = xorBits x (keyStream (gcmStreamBlock f ctr) (i + 1) (blocks x).length) := by
  induction x using pieces_induction (n := 128) (by decide) generalizing i with
  | nil => rfl
  | piece x hx ih =>
    have hblocks : blocks x = x.take 128 :: blocks (x.drop 128) := splitEvery_of_ne_nil (by decide) hx
    rw [hblocks, gcmCtr, ← Function.iterate_succ_apply' inc32, ih, List.length_cons, keyStream_succ,
      xorBits_append_right, bvToBits_length]
    rfl

theorem gcmCtr_blocks_eq_xorBits (f : Block → Block) (ctr : Block) (x : Bits) :
    gcmCtr f ctr (blocks x) = xorBits x (keyStream (gcmStreamBlock f ctr) 1 (blocks x).length) :=
  gcmCtr_blocks_iterate f ctr 0 x

theorem gcmCtr_blocks_length (f : Block → Block) (ctr : Block) (x : Bits) :
    (gcmCtr f ctr (blocks x)).length = x.length := by
  rw [gcmCtr_blocks_eq_xorBits, xorBits_length, Nat.min_eq_left (length_le_keyStream_length _ _ x)]

/-- The key stream depends on the length of the data only, so a second sum takes the first one back. -/
theorem gcmCtr_gcmCtr (f : Block → Block) (ctr : Block) (x : Bits) :
    gcmCtr f ctr (blocks (gcmCtr f ctr (blocks x))) = x := by
  have hcount : (blocks (gcmCtr f ctr (blocks x))).length = (blocks x).length := by
    rw [blocks_length, gcmCtr_blocks_length, blocks_length]
  rw [gcmCtr_blocks_eq_xorBits, hcount, gcmCtr_blocks_eq_xorBits, xorBits_xorBits (length_le_keyStream_length _ _ x)]

/-! GCM decryption undoes encryption (R312) -/

theorem isAeadTag_of_gcmChecks {iv : Bits} {tlen : Nat} (h : gcmChecks iv tlen = .ok ()) : isAeadTag tlen = true := by
  unfold gcmChecks at h
  split_ifs at h with htag
  simpa using htag

/-- Encryption that succeeds passed the checks and wrote the enciphered data and their tag. -/
theorem gcmEncrypt_eq_ok {k : AesCtx} {pt iv adata ct : Bits} {tlen : Nat}
    (h : gcmEncrypt k pt iv adata tlen = .ok ct) :
    gcmChecks iv tlen = .ok () ∧
      ∃ h j0 y, h = aesEncrypt k 0 ∧ j0 = gcmJ0 h iv ∧ y = gcmCtr (aesEncrypt k) j0 (blocks pt) ∧
        ct = y ++ gcmTag (aesEncrypt k) h j0 adata y tlen := by
  unfold gcmEncrypt at h
  split at h
  next => cases h
  next hchecks => exact ⟨hchecks, _, _, _, rfl, rfl, rfl, (Except.ok.inj (capacity_eq_ok h)).symm⟩

/-- Decryption of a body and the body's tag. -/
theorem gcmDecrypt_append {k : AesCtx} {c tag iv adata : Bits} {tlen : Nat} {h j0 : Block}
    (hchecks : gcmChecks iv tlen = .ok ()) (hh : h = aesEncrypt k 0) (hj0 : j0 = gcmJ0 h iv)
    (htag : gcmTag (aesEncrypt k) h j0 adata c tlen = tag) :
    gcmDecrypt k (c ++ tag) iv adata tlen = .ok (gcmCtr (aesEncrypt k) j0 (blocks c)) := by
  have hlen : tag.length = tlen := htag ▸ length_take_bvToBits_of_isAeadTag (isAeadTag_of_gcmChecks hchecks) _
  subst hh hj0
  rw [gcmDecrypt, hchecks]
  simp only [if_neg (not_length_append_lt hlen), length_append_sub hlen, List.take_left, List.drop_left, if_pos htag]

/-- Settles O53: the tag is one of the enciphered data, so it agrees, and a second pass of counter mode takes the first
one back. -/
theorem gcmRoundTrip : Obligations.GcmRoundTrip := by
  intro k pt iv adata ct tlen henc
  obtain ⟨hchecks, h, j0, y, hh, hj0, rfl, rfl⟩ := gcmEncrypt_eq_ok henc
  rw [gcmDecrypt_append hchecks hh hj0 rfl, gcmCtr_gcmCtr]

end Sys2Proof.Machine
end

section
/-! Entropy events (46_prng.md R325 to R329): what the pool of a source takes, and the `RNG.ADDENT` commands as
equations of the next state. -/

namespace Sys2Proof.Machine

/-! The generic step (R326) -/

@[simp] theorem entropyHeader_length (p : Prng) (now : BitVec 64) (kind n est : Nat) (tag : TagIx) :
    (entropyHeader p now kind n est tag).length = 192 := by
  simp [entropyHeader]

/-- An event is accepted (R326): neither the entropy sum nor the pool's length overflows. -/
def EventFits (p : Prng) (body : Bits) (est : Nat) (tag : TagIx) : Prop :=
  p.poolStrength.toNat + est < 2 ^ 32 ∧ fedBits p tag + 192 + body.length < 2 ^ 64

/-- The source's round-robin index names a pool (R325). -/
theorem GeneratorInv.exists_pool {p : Prng} (h : GeneratorInv p) (tag : TagIx) :
    ∃ pool, p.pools[p.robin.get tag]? = some pool :=
  ⟨_, List.getElem?_eq_getElem (h.robin tag)⟩

theorem fedBits_of_pool {p : Prng} {tag : TagIx} {pool : Pool} (h : p.pools[p.robin.get tag]? = some pool) :
    fedBits p tag = pool.ctx.len := by
  rw [fedBits, h]

theorem setPool_rest (p : Prng) (r : Nat) (x : Pool) :
    (p.setPool r x).strength = p.strength ∧ (p.setPool r x).reseedCount = p.reseedCount ∧
    (p.setPool r x).nextReseed = p.nextReseed ∧ (p.setPool r x).key = p.key ∧ (p.setPool r x).ctr = p.ctr ∧
    (p.setPool r x).cipher = p.cipher := by
  cases r <;> exact ⟨rfl, rfl, rfl, rfl, rfl, rfl⟩

theorem fedBy_of_addEntropy {p q : Prng} {now : BitVec 64} {kind n est : Nat} {body : Bits} {tag : TagIx}
    (h : addEntropy p now kind body n est tag = .done q) : FedBy p q now kind body n est tag := by
  obtain ⟨pool, ctx, -, hpool, hctx, rfl⟩ := addEntropy_eq_done h
  have habsorb : shaAbsorb sha256P pool.ctx (entropyHeader p now kind n est tag ++ body) = ctx := by
    unfold shaUpdate at hctx
    split at hctx
    · cases hctx
    · exact Except.ok.inj hctx
  exact
    { pools := ⟨pool, hpool, habsorb ▸ setPool_pools p _ _⟩
      robin := rfl
      event := rfl
      strength := rfl
      rest := setPool_rest p _ _ }

/-- The two ends of the generic step: both overflows are refused with the same error. -/
theorem addEntropy_cases {p : Prng} (h : GeneratorInv p) (now : BitVec 64) (kind : Nat) (body : Bits) (n est : Nat)
    (tag : TagIx) :
    (EventFits p body est tag ∧ ∃ q, addEntropy p now kind body n est tag = .done q) ∨
    (¬ EventFits p body est tag ∧ addEntropy p now kind body n est tag = .raised .invalidParameter) := by
  obtain ⟨pool, hpool⟩ := h.exists_pool tag
  have hfed := fedBits_of_pool hpool
  have hat : p.poolAt (p.robin.get tag) = some pool := hpool
  have hlen : (entropyHeader p now kind n est tag ++ body).length = 192 + body.length := by
    rw [List.length_append, entropyHeader_length]
  unfold addEntropy EventFits
  by_cases hsum : 2 ^ 32 ≤ p.poolStrength.toNat + est
  · exact .inr ⟨fun hfits => by omega, if_pos hsum⟩
  · simp only [if_neg hsum, hat, shaUpdate, hlen]
    by_cases hlong : 2 ^ 64 ≤ pool.ctx.len + (192 + body.length)
    · exact .inr ⟨fun hfits => by omega, by rw [if_pos hlong]⟩
    · exact .inl ⟨by omega, _, by rw [if_neg hlong]⟩

/-! The commands (R327 to R329) -/

/-- How an entropy command ends (R326): the event is accepted, or refused with the generator as it was. -/
theorem finishEntropy_addEntropy {s : State} (h : GeneratorInv s.rng) (op : Byte) (kind : Nat) (body : Bits)
    (n est : Nat) (tag : TagIx) :
    (EventFits s.rng body est tag → ∃ p,
      finishEntropy op (addEntropy s.rng s.now kind body n est tag) s = .next ((s.setRng p).succeed op) ∧
      FedBy s.rng p s.now kind body n est tag) ∧
    (¬ EventFits s.rng body est tag →
      finishEntropy op (addEntropy s.rng s.now kind body n est tag) s = .next (s.fail op .invalidParameter)) := by
  obtain ⟨hfits, p, hp⟩ | ⟨hfits, hraised⟩ := addEntropy_cases h s.now kind body n est tag
  · refine ⟨fun _ => ⟨p, ?_, fedBy_of_addEntropy hp⟩, absurd hfits⟩
    rw [hp]
    rfl
  · refine ⟨fun hyes => absurd hyes hfits, fun _ => ?_⟩
    rw [hraised]
    rfl

theorem exec_rngAddentN (b c : ScalIx) (tag : TagIx) (d : Bool) (s : State) :
    exec (.rngAddentN b c tag d) s =
      finishEntropy 0x60
        (addEntropy s.rng s.now 1 (bvToBits (s.scalAt b)) 1 (if d then 1 else s.natAt c) tag) s := rfl

theorem exec_rngAddentW (b : BufIx) (c : ScalIx) (tag : TagIx) (d : Bool) (s : State) :
    exec (.rngAddentW b c tag d) s =
      if (s.bufAt b).length % 32 = 0 then
        finishEntropy 0x61
          (addEntropy s.rng s.now 2 (s.bufAt b) ((s.bufAt b).length / 32)
            (if d then wordsEstimate (s.bufAt b) else s.natAt c) tag) s
      else .next (s.fail 0x61 .invalidParameter) := ite_not _ _ _

theorem exec_rngAddentS (b : BufIx) (c : ScalIx) (tag : TagIx) (d : Bool) (s : State) :
    exec (.rngAddentS b c tag d) s =
      if (s.bufAt b).length % 8 = 0 then
        finishEntropy 0x62
          (addEntropy s.rng s.now 3 (s.bufAt b) ((s.bufAt b).length / 8)
            (if d then (s.bufAt b).length / 8 else s.natAt c) tag) s
      else .next (s.fail 0x62 .invalidParameter) := ite_not _ _ _

theorem bitlen_eq_size (w : Word) : bitlen w = Nat.size w.toNat := by
  unfold bitlen
  split
  next hw =>
    rw [hw]
    rfl
  next hw =>
    have hne : w.toNat ≠ 0 := fun h => hw (BitVec.eq_of_toNat_eq h)
    exact eq_of_forall_ge_iff fun k => (Nat.log2_lt hne).trans Nat.size_le.symm

/-- The default estimate of whole words, word by word (R328). -/
theorem wordsEstimate_eq_sum {x : Bits} (h : x.length % 32 = 0) :
    wordsEstimate x =
      ((List.range (x.length / 32)).map fun i => Nat.size (bitsToNat ((x.drop (32 * i)).take 32))).sum := by
  have hcount : ceilDiv x.length 32 = x.length / 32 := by
    rw [ceilDiv]
    omega
  have hword : ∀ i, bitlen (bitsToBv 32 ((x.drop (32 * i)).take 32)) =
      Nat.size (bitsToNat ((x.drop (32 * i)).take 32)) := fun i => by
    have hlt : bitsToNat ((x.drop (32 * i)).take 32) < 2 ^ 32 :=
      (bitsToNat_lt _).trans_le (Nat.pow_le_pow_right (by decide) (List.length_take_le _ _))
    rw [bitlen_eq_size, bitsToBv, BitVec.toNat_ofNat, Nat.mod_eq_of_lt hlt]
  rw [wordsEstimate, splitEvery_eq_map_range (by decide), hcount, List.map_map]
  exact congrArg List.sum (List.map_congr_left fun i _ => hword i)

theorem ite_and_of_left {c e : Prop} [Decidable (c ∧ e)] {x y : Prop} (hc : c) (h : (e → x) ∧ (¬ e → y)) :
    if c ∧ e then x else y :=
  ite_prop_iff_and.mpr ⟨fun hce => h.1 hce.2, fun hce => h.2 fun he => hce ⟨hc, he⟩⟩

/-- Settles O34: the body's form is looked at first, then the generic step accepts or refuses the event. -/
theorem entropyCommands : Obligations.EntropyCommands := by
  refine fun s h => ⟨fun b c tag d => ?_, fun b c tag d => ?_, fun b c tag d => ?_⟩
  · have hends := finishEntropy_addEntropy h 0x60 1 (bvToBits (s.scalAt b)) 1 (if d then 1 else s.natAt c) tag
    rw [EventFits, bvToBits_length] at hends
    rw [exec_rngAddentN]
    exact ite_prop_iff_and.mpr hends
  · rw [exec_rngAddentW]
    by_cases hform : (s.bufAt b).length % 32 = 0
    · simp only [if_pos hform, ← wordsEstimate_eq_sum hform]
      exact ite_and_of_left hform (finishEntropy_addEntropy h 0x61 2 _ _ _ tag)
    · simp only [hform, false_and, if_false]
  · rw [exec_rngAddentS]
    by_cases hform : (s.bufAt b).length % 8 = 0
    · simp only [if_pos hform]
      exact ite_and_of_left hform (finishEntropy_addEntropy h 0x62 3 _ _ _ tag)
    · simp only [hform, false_and, if_false]

end Sys2Proof.Machine
end

section
/-! Readiness (46_prng.md R321, R323, R324): the threshold of a level, the three answers as a table, and what they say
of the generator that `RNG.WORDS` uses (R337). -/

namespace Sys2Proof.Machine

/-! Thresholds (R321, R323) -/

/-- The level a level field asks for: 15 stands for the default (R323). -/
def levelOf (defParanoia : BitVec 4) (l : Nat) : Nat := if l = 15 then defParanoia.toNat else l

/-- `PARANOIA` as a total function: no entropy beyond the table (R321). -/
def levelBits (level : Nat) : Nat := ([0, 48, 64, 96, 128, 192, 256, 384, 512, 768, 1024] : List Nat).getD level 0

theorem paranoia_of_le {level : Nat} (h : level ≤ 10) : paranoia level = some (levelBits level) := by
  have hlt : level < ([0, 48, 64, 96, 128, 192, 256, 384, 512, 768, 1024] : List Nat).length := Nat.lt_succ_of_le h
  rw [paranoia, levelBits, List.getD_eq_getElem _ _ hlt, List.getElem?_eq_getElem hlt]

theorem paranoia_of_lt {level : Nat} (h : 10 < level) : paranoia level = none := List.getElem?_eq_none h

theorem rngThreshold_of_lt {l : Nat} {d : BitVec 4} (h : 10 < levelOf d l) :
    rngThreshold l d = .error .invalidParameter := by
  unfold levelOf at h
  rw [rngThreshold, paranoia_of_lt h]

theorem rngThreshold_of_le {l : Nat} {d : BitVec 4} (h : levelOf d l ≤ 10) :
    rngThreshold l d = .ok (levelBits (levelOf d l)) := by
  unfold levelOf at h ⊢
  rw [rngThreshold, paranoia_of_le h]

/-! The three answers (R324) -/

/-- The strength the generator has been seeded to suffices. -/
abbrev Prng.Seeded (p : Prng) (t : Nat) : Prop := 0 < p.strength.toNat ∧ t ≤ p.strength.toNat

/-- The entropy in the pools would suffice. -/
abbrev Prng.Pooled (p : Prng) (t : Nat) : Prop := 0 < p.poolStrength.toNat ∧ t ≤ p.poolStrength.toNat

/-- Pool 0 and the time ask for a reseed. -/
abbrev Prng.ReseedDue (p : Prng) (now : BitVec 64) : Prop :=
  80 < p.pool0.entropy.toNat ∧ p.nextReseed.toNat < now.toNat

theorem strengthReady_iff (p : Prng) (t : Nat) : strengthReady p t = true ↔ p.Seeded t := decide_eq_true_iff

theorem readiness_of_seeded {p : Prng} {t : Nat} (h : p.Seeded t) (now : BitVec 64) :
    readiness p now t = if p.ReseedDue now then .requiresReseed else .ready := if_pos ((strengthReady_iff p t).mpr h)

theorem readiness_of_not_seeded {p : Prng} {t : Nat} (h : ¬ p.Seeded t) (now : BitVec 64) :
    readiness p now t = if p.Pooled t then .requiresReseed else .notReady :=
  if_neg (mt (strengthReady_iff p t).mp h)

theorem readiness_code (p : Prng) (now : BitVec 64) (t : Nat) :
    (readiness p now t).code =
      if p.Seeded t then (if p.ReseedDue now then 2 else 1) else if p.Pooled t then 2 else 0 := by
  split
  next h =>
    rw [readiness_of_seeded h]
    exact apply_ite Readiness.code _ _ _
  next h =>
    rw [readiness_of_not_seeded h]
    exact apply_ite Readiness.code _ _ _

theorem readiness_eq_notReady_iff (p : Prng) (now : BitVec 64) (t : Nat) :
    readiness p now t = .notReady ↔ ¬ p.Seeded t ∧ ¬ p.Pooled t := by
  by_cases h : p.Seeded t
  · rw [readiness_of_seeded h]
    split <;> simp [h]
  · rw [readiness_of_not_seeded h]
    split <;> simp [*]

/-! The generator to generate from (R337) -/

theorem preparedPrng_eq_ite {p : Prng} {t : Nat} (h : ¬ (¬ p.Seeded t ∧ ¬ p.Pooled t)) (now : BitVec 64)
    (noise : Bits) :
    preparedPrng p now noise t =
      if p.Seeded t then (if p.ReseedDue now then reseed false now noise p else p) else reseed true now noise p := by
  unfold preparedPrng
  by_cases hseeded : p.Seeded t
  · rw [readiness_of_seeded hseeded, if_pos hseeded, (strengthReady_iff p t).mpr hseeded]
    by_cases hdue : p.ReseedDue now
    · rw [if_pos hdue, if_pos rfl, if_pos hdue]
      rfl
    · rw [if_neg hdue, if_neg nofun, if_neg hdue]
  · have hpooled : p.Pooled t := not_not.mp fun hno => h ⟨hseeded, hno⟩
    have hready : strengthReady p t = false := Bool.eq_false_iff.mpr (mt (strengthReady_iff p t).mp hseeded)
    rw [readiness_of_not_seeded hseeded, if_pos hpooled, if_pos rfl, if_neg hseeded, hready]
    rfl

/-- A sound generator that is ready has a cipher (R331): it was seeded before, or a reseed has just made it. -/
theorem exists_cipher_of_ready {p : Prng} (hinv : GeneratorInv p) {t : Nat} (h : ¬ (¬ p.Seeded t ∧ ¬ p.Pooled t))
    (now : BitVec 64) (noise : Bits) : ∃ k, (preparedPrng p now noise t).cipher = some k := by
  rw [preparedPrng_eq_ite h]
  split
  next hseeded =>
    split
    · exact ⟨_, rfl⟩
    · exact Option.ne_none_iff_exists'.mp (hinv.seeded hseeded.1)
  next => exact ⟨_, rfl⟩

theorem genBlocks_length (k i : Nat) (g : Gen) : (genBlocks k i g).1.length = k := by
  induction k generalizing i g with
  | zero => rfl
  | succ k ih => exact congrArg (· + 1) (ih _ _)

/-- Whole blocks are made, and the result is cut from them. -/
theorem generate_length (n : Nat) (g : Gen) : (generate n g).1.length = 32 * n := by
  have hblocks : ((genBlocks (ceilDiv n 4) 0 g).1.flatMap bvToBits).length = 128 * ceilDiv n 4 := by
    rw [flatMap_bvToBits_length, genBlocks_length]
  refine List.length_take_of_le ?_
  rw [hblocks, ceilDiv]
  omega

/-! The commands (R333, R338) -/

theorem exec_rngIsReady (a : ScalIx) (l : Nat) (s : State) :
    exec (.rngIsReady a l) s =
      resultToScal 0x63 a ((rngThreshold l s.defParanoia).map fun t => (readiness s.rng s.now t).code) s := rfl

theorem exec_rngIsReady_of_threshold {l t : Nat} {s : State} (ht : rngThreshold l s.defParanoia = .ok t) (a : ScalIx) :
    exec (.rngIsReady a l) s = .next (s.wroteScal 0x63 a (readiness s.rng s.now t).code) := by
  rw [exec_rngIsReady, ht]
  rfl

theorem exec_rngIsReady_of_error {l : Nat} {e : Err} {s : State} (he : rngThreshold l s.defParanoia = .error e)
    (a : ScalIx) : exec (.rngIsReady a l) s = .next (s.fail 0x63 e) := by
  rw [exec_rngIsReady, he]
  rfl

theorem exec_rngWords (a : BufIx) (c : ScalIx) (l : Nat) (s : State) :
    exec (.rngWords a c l) s = execRngWords a c l s := rfl

theorem exec_rngWords_of_error {l : Nat} {e : Err} {s : State} (he : rngThreshold l s.defParanoia = .error e)
    (a : BufIx) (c : ScalIx) : exec (.rngWords a c l) s = .next (s.failedTo 0x64 a e) := by
  rw [exec_rngWords, execRngWords, he]
  rfl

theorem exec_rngWords_of_overflow {l t : Nat} {s : State} {c : ScalIx} (ht : rngThreshold l s.defParanoia = .ok t)
    (hfits : fitsBuf (32 * s.natAt c) = false) (a : BufIx) :
    exec (.rngWords a c l) s = .next (s.failedTo 0x64 a .bufferOverflow) := by
  rw [exec_rngWords, execRngWords, ht]
  simp only [hfits, Bool.not_false, if_true, raiseTo_eq]

theorem exec_rngWords_of_not_ready {l t : Nat} {s : State} {c : ScalIx} (ht : rngThreshold l s.defParanoia = .ok t)
    (hfits : fitsBuf (32 * s.natAt c) = true) (hready : ¬ s.rng.Seeded t ∧ ¬ s.rng.Pooled t) (a : BufIx) :
    exec (.rngWords a c l) s = .next (s.failedTo 0x64 a .generatorNotSeeded) := by
  rw [exec_rngWords, execRngWords, ht]
  simp only [hfits, Bool.not_true, Bool.false_eq_true, if_false, raiseTo_eq,
    if_pos ((readiness_eq_notReady_iff s.rng s.now t).mpr hready)]

theorem exec_rngWords_of_ready {l t : Nat} {s : State} {c : ScalIx} {p : Prng} {k : AesCtx}
    (ht : rngThreshold l s.defParanoia = .ok t) (hfits : fitsBuf (32 * s.natAt c) = true)
    (hready : ¬ (¬ s.rng.Seeded t ∧ ¬ s.rng.Pooled t)) (hp : preparedPrng s.rng s.now s.noiseBits t = p)
    (hk : p.cipher = some k) (a : BufIx) :
    exec (.rngWords a c l) s = .next
      (((s.setBuf a (generate (s.natAt c) { key := p.key, cipher := k, ctr := p.ctr }).1).setRng
        (p.withGen (generate (s.natAt c) { key := p.key, cipher := k, ctr := p.ctr }).2)).succeed 0x64) := by
  rw [exec_rngWords, execRngWords, ht]
  simp only [hfits, Bool.not_true, Bool.false_eq_true, if_false,
    if_neg (mt (readiness_eq_notReady_iff s.rng s.now t).mp hready), hp, hk, finish_eq]

/-- Settles O35: the threshold is a table look-up, readiness a case split on the two strengths, and a ready generator
has a cipher. -/
theorem generatorCommands : Obligations.GeneratorCommands := by
  refine fun s => ⟨fun a l => ?_, fun hinv a c l => ?_⟩
  · by_cases hhigh : 10 < levelOf s.defParanoia l
    · exact (exec_rngIsReady_of_error (rngThreshold_of_lt hhigh) a).trans (if_pos hhigh).symm
    · have ht := rngThreshold_of_le (Nat.le_of_not_lt hhigh)
      rw [exec_rngIsReady_of_threshold ht a, readiness_code]
      exact (if_neg hhigh).symm
  · refine ite_prop_iff_and.mpr ⟨fun hhigh => exec_rngWords_of_error (rngThreshold_of_lt hhigh) a c, fun hhigh => ?_⟩
    have ht := rngThreshold_of_le (Nat.le_of_not_lt hhigh)
    refine ite_prop_iff_and.mpr ⟨fun hfits => exec_rngWords_of_overflow ht hfits a, fun hfits => ?_⟩
    rw [Bool.not_eq_false] at hfits
    refine ite_prop_iff_and.mpr ⟨fun hready => exec_rngWords_of_not_ready ht hfits hready a, fun hready => ?_⟩
    obtain ⟨k, hk⟩ := exists_cipher_of_ready hinv hready s.now s.noiseBits
    exact ⟨_, k, preparedPrng_eq_ite hready s.now s.noiseBits, hk, generate_length _ _,
      exec_rngWords_of_ready ht hfits hready rfl hk a⟩

end Sys2Proof.Machine
end

section
/-! What a reseed makes of the generator (46_prng.md R334, R335): the pools it takes, in the form of `reseedPools`. -/

namespace Sys2Proof.Machine

/-! Which pools are taken (R334) -/

theorem reseedTakes_zero (full : Bool) (p : Prng) : reseedTakes full p 0 = true := by simp [reseedTakes]

theorem reseedTakes_succ (full : Bool) (p : Prng) (j : Nat) :
    reseedTakes full p (j + 1) = (reseedTakes full p j && (full || !p.reseedCount.getLsbD j)) := by
  simp only [reseedTakes, List.range_succ, List.all_append, List.all_cons, List.all_nil, Bool.and_true,
    Bool.or_and_distrib_left]

/-- The loop does not take a pool past one it has left. -/
theorem reseedTakes_eq_false_of_le {full : Bool} {p : Prng} {i j : Nat} (hij : i ≤ j)
    (h : reseedTakes full p i = false) : reseedTakes full p j = false := by
  induction j, hij using Nat.le_induction with
  | base => exact h
  | succ j _ ih => rw [reseedTakes_succ, ih, Bool.false_and]

/-- The pools taken from a list that begins at number `i`. -/
def takenFrom (full : Bool) (p : Prng) (i : Nat) (l : List Pool) : List Pool :=
  ((l.zipIdx i).filter fun x => reseedTakes full p x.2).map fun x => x.1

/-- The pools left of a list that begins at number `i`: those taken are empty. -/
def emptiedFrom (full : Bool) (p : Prng) (i : Nat) (l : List Pool) : List Pool :=
  l.mapIdx fun j x => if reseedTakes full p (i + j) then Pool.fresh else x

theorem takenFrom_cons {full : Bool} {p : Prng} {i : Nat} (h : reseedTakes full p i = true) (x : Pool)
    (xs : List Pool) : takenFrom full p i (x :: xs) = x :: takenFrom full p (i + 1) xs := by
  rw [takenFrom, List.zipIdx_cons, List.filter_cons_of_pos (by exact h), List.map_cons]
  rfl

theorem emptiedFrom_cons {full : Bool} {p : Prng} {i : Nat} (h : reseedTakes full p i = true) (x : Pool)
    (xs : List Pool) : emptiedFrom full p i (x :: xs) = Pool.fresh :: emptiedFrom full p (i + 1) xs := by
  simp only [emptiedFrom, List.mapIdx_cons, Nat.add_zero, if_pos h, Nat.add_assoc, Nat.add_comm 1]

theorem takenFrom_of_stopped {full : Bool} {p : Prng} {i : Nat} (h : reseedTakes full p i = false) (l : List Pool) :
    takenFrom full p i l = [] := by
  have hnone : (l.zipIdx i).filter (fun x => reseedTakes full p x.2) = [] := by
    refine List.filter_eq_nil_iff.mpr fun x hx => ?_
    rw [reseedTakes_eq_false_of_le (List.le_snd_of_mem_zipIdx hx) h]
    exact Bool.false_ne_true
  rw [takenFrom, hnone, List.map_nil]

theorem emptiedFrom_of_stopped {full : Bool} {p : Prng} {i : Nat} (h : reseedTakes full p i = false) (l : List Pool) :
    emptiedFrom full p i l = l := by
  have hkeep : ∀ j, reseedTakes full p (i + j) = false := fun j => reseedTakes_eq_false_of_le (Nat.le_add_right i j) h
  refine List.ext_getElem List.length_mapIdx fun j _ _ => ?_
  simp only [emptiedFrom, List.getElem_mapIdx, hkeep, Bool.false_eq_true, if_false]

/-- The loop of a reseed, as long as it runs (R334): it stops after the first pool whose successor is not taken. -/
theorem takePools_eq {full : Bool} {p : Prng} {i : Nat} (h : reseedTakes full p i = true) (l : List Pool) :
    takePools full p.reseedCount i l =
      { digests := (takenFrom full p i l).flatMap fun x => shaFinish sha256P x.ctx
        entropy := entropySum (takenFrom full p i l)
        pools := emptiedFrom full p i l } := by
  induction l generalizing i with
  | nil => rfl
  | cons x xs ih =>
    have hnext : reseedTakes full p (i + 1) = (full || !p.reseedCount.getLsbD i) := by
      rw [reseedTakes_succ, h, Bool.true_and]
    rw [takePools_cons, takenFrom_cons h, emptiedFrom_cons h, ← hnext, entropySum_cons, List.flatMap_cons]
    cases hgoes : reseedTakes full p (i + 1) with
    | true => rw [if_pos rfl, ih hgoes]
    | false =>
      rw [if_neg Bool.false_ne_true, takenFrom_of_stopped hgoes, emptiedFrom_of_stopped hgoes]
      rfl

/-- The loop over all pools. -/
theorem takePools_pools (full : Bool) (p : Prng) :
    takePools full p.reseedCount 0 p.pools =
      { digests := (reseedPools full p).flatMap fun x => shaFinish sha256P x.ctx
        entropy := entropySum (reseedPools full p)
        pools := p.pools.mapIdx fun j x => if reseedTakes full p j then Pool.fresh else x } := by
  rw [takePools_eq (reseedTakes_zero full p)]
  simp only [emptiedFrom, Nat.zero_add]
  rfl

theorem reseed_pools_eq (full : Bool) (now : BitVec 64) (noise : Bits) (p : Prng) :
    (reseed full now noise p).pools =
      p.pools.mapIdx (fun j x => if reseedTakes full p j then Pool.fresh else x) ++
        if p.npools < rngMaxPools ∧ 2 ^ p.npools ≤ p.reseedCount.toNat then [Pool.fresh] else [] := by
  rw [reseed_pools, takePools_pools]
  split
  · rfl
  · exact (List.append_nil _).symm

/-- The new key (R334). -/
theorem reseed_key (full : Bool) (now : BitVec 64) (noise : Bits) (p : Prng) :
    bvToBits (reseed full now noise p).key = hashOf .sha256 (bvToBits p.key ++
      (natToBits 32 (now + 30000).toNat ++ noise ++ (reseedPools full p).flatMap fun x => shaFinish sha256P x.ctx)) := by
  have hkey : (reseed full now noise p).key =
      bitsToBv 256 (hashOf .sha256 (bvToBits p.key ++
        reseedData (now + 30000) noise (takePools full p.reseedCount 0 p.pools).digests)) := rfl
  rw [hkey, takePools_pools]
  exact bvToBits_bitsToBv (hashOf_length .sha256 _)

theorem reseed_strengths (full : Bool) (now : BitVec 64) (noise : Bits) (p : Prng) :
    (reseed full now noise p).poolStrength = p.poolStrength - BitVec.ofNat 32 (entropySum (reseedPools full p)) ∧
    (reseed full now noise p).strength =
      if p.strength.toNat < entropySum (reseedPools full p) then BitVec.ofNat 32 (entropySum (reseedPools full p))
      else p.strength := by
  have hentropy : (takePools full p.reseedCount 0 p.pools).entropy = entropySum (reseedPools full p) := by
    rw [takePools_pools]
  rw [← hentropy]
  exact ⟨rfl, rfl⟩

end Sys2Proof.Machine
end

section
/-! The block counter, rekeying and generation (46_prng.md R330 to R332, R337): the output as one stream of blocks. -/

namespace Sys2Proof.Machine

/-! The counter (R330) -/

theorem Ctr.toNat_inc (c : Ctr) : c.inc.toNat = (c.toNat + 1) % 2 ^ 128 := by
  unfold Ctr.inc Ctr.toNat
  split_ifs with hc0 hc1 hc2 <;> dsimp only <;> bv_omega

theorem Ctr.toNat_lt (c : Ctr) : c.toNat < 2 ^ 128 := by
  unfold Ctr.toNat
  omega

theorem Ctr.block_eq (c : Ctr) : c.block = counterBlock c.toNat := by
  have e0 : BitVec.ofNat 32 c.toNat = c.c0 := by unfold Ctr.toNat; bv_omega
  have e1 : BitVec.ofNat 32 (c.toNat / 2 ^ 32) = c.c1 := by unfold Ctr.toNat; bv_omega
  have e2 : BitVec.ofNat 32 (c.toNat / 2 ^ 64) = c.c2 := by unfold Ctr.toNat; bv_omega
  have e3 : BitVec.ofNat 32 (c.toNat / 2 ^ 96) = c.c3 := by unfold Ctr.toNat; bv_omega
  rw [counterBlock, e0, e1, e2, e3, Ctr.block]

/-- The cipher input sees the counter modulo `2^128`. -/
theorem counterBlock_congr {m n : Nat} (h : m % 2 ^ 128 = n % 2 ^ 128) : counterBlock m = counterBlock n := by
  have e0 : BitVec.ofNat 32 m = BitVec.ofNat 32 n := by bv_omega
  have e1 : BitVec.ofNat 32 (m / 2 ^ 32) = BitVec.ofNat 32 (n / 2 ^ 32) := by bv_omega
  have e2 : BitVec.ofNat 32 (m / 2 ^ 64) = BitVec.ofNat 32 (n / 2 ^ 64) := by bv_omega
  have e3 : BitVec.ofNat 32 (m / 2 ^ 96) = BitVec.ofNat 32 (n / 2 ^ 96) := by bv_omega
  rw [counterBlock, e0, e1, e2, e3, counterBlock]

/-! The stream of blocks that one key gives (R331) -/

/-- The `k`-th block after the generator's counter. -/
def streamBlock (g : Gen) (k : Nat) : Block := aesEncrypt g.cipher (counterBlock (g.ctr.toNat + k))

theorem gen4_fst (g : Gen) : (gen4 g).1 = streamBlock g 1 := by
  have hblock : g.ctr.inc.block = counterBlock (g.ctr.toNat + 1) := by
    rw [Ctr.block_eq, Ctr.toNat_inc]
    exact counterBlock_congr (Nat.mod_mod _ _)
  rw [streamBlock, ← hblock, gen4]

theorem gen4_snd_ctr (g : Gen) : (gen4 g).2.ctr.toNat = (g.ctr.toNat + 1) % 2 ^ 128 := Ctr.toNat_inc g.ctr

/-- The generator after `k` blocks. -/
def genAfter (k : Nat) (g : Gen) : Gen := (fun x => (gen4 x).2)^[k] g

theorem genAfter_succ (k : Nat) (g : Gen) : genAfter (k + 1) g = genAfter k (gen4 g).2 := rfl

/-- Blocks move the counter only. -/
theorem genAfter_spec (k : Nat) (g : Gen) :
    (genAfter k g).key = g.key ∧ (genAfter k g).cipher = g.cipher ∧
    (genAfter k g).ctr.toNat = (g.ctr.toNat + k) % 2 ^ 128 := by
  induction k generalizing g with
  | zero => exact ⟨rfl, rfl, (Nat.mod_eq_of_lt g.ctr.toNat_lt).symm⟩
  | succ k ih =>
    obtain ⟨hkey, hcipher, hctr⟩ := ih (gen4 g).2
    rw [gen4_snd_ctr] at hctr
    exact ⟨hkey, hcipher, hctr.trans (by omega)⟩

theorem streamBlock_genAfter (k : Nat) (g : Gen) (j : Nat) : streamBlock (genAfter k g) j = streamBlock g (k + j) := by
  obtain ⟨-, hcipher, hctr⟩ := genAfter_spec k g
  rw [streamBlock, hcipher, hctr]
  exact congrArg (aesEncrypt g.cipher) (counterBlock_congr (by omega))

/-- Rekeying takes the next two blocks (R332). -/
theorem gate_spec (g : Gen) :
    (gate g).key = streamBlock g 1 ++ streamBlock g 2 ∧ (gate g).cipher = aesContext (bvToBits (gate g).key) ∧
    (gate g).ctr.toNat = (g.ctr.toNat + 2) % 2 ^ 128 := by
  have hnext : (gen4 (gen4 g).2).1 = streamBlock g 2 := by
    rw [gen4_fst]
    exact streamBlock_genAfter 1 g 1
  obtain ⟨-, -, hctr⟩ := genAfter_spec 2 g
  exact ⟨congrArg₂ (· ++ ·) (gen4_fst g) hnext, rfl, hctr⟩

/-! Generation (R337) -/

/-- The generator a block is made from when `i` words are out: a full burst asks for a new key first. -/
def rekeyedAt (i : Nat) (g : Gen) : Gen := if 0 < i ∧ i % rngBurstWords = 0 then gate g else g

theorem genBlocks_succ (k i : Nat) (g : Gen) :
    genBlocks (k + 1) i g =
      ((gen4 (rekeyedAt i g)).1 :: (genBlocks k (i + 4) (gen4 (rekeyedAt i g)).2).1,
        (genBlocks k (i + 4) (gen4 (rekeyedAt i g)).2).2) := rfl

theorem rekeyedAt_of_lt {i : Nat} (h : i < rngBurstWords) (g : Gen) : rekeyedAt i g = g := by
  refine if_neg ?_
  rw [Nat.mod_eq_of_lt h]
  omega

theorem rekeyedAt_add_burst {i : Nat} (h : 0 < i) (g : Gen) : rekeyedAt (i + rngBurstWords) g = rekeyedAt i g := by
  simp only [rekeyedAt, Nat.add_mod_right, h, Nat.add_pos_left h rngBurstWords]

theorem rekeyedAt_burst (g : Gen) : rekeyedAt rngBurstWords g = gate g := if_pos ⟨by decide, Nat.mod_self _⟩

/-- Within a burst the key stays. -/
theorem genBlocks_of_le {k i : Nat} (h : i + 4 * k ≤ rngBurstWords) (g : Gen) :
    genBlocks k i g = ((List.range k).map fun j => streamBlock g (j + 1), genAfter k g) := by
  induction k generalizing i g with
  | zero => rfl
  | succ k ih =>
    have hrest : ∀ j, streamBlock (gen4 g).2 (j + 1) = streamBlock g (j + 1 + 1) := fun j => by
      rw [Nat.add_comm (j + 1) 1]
      exact streamBlock_genAfter 1 g (j + 1)
    rw [genBlocks_succ, rekeyedAt_of_lt (by omega), ih (by omega), gen4_fst, List.range_succ_eq_map, List.map_cons,
      List.map_map, genAfter_succ]
    exact congrArg (fun l => (streamBlock g 1 :: l, _)) (List.map_congr_left fun j _ => hrest j)

theorem genBlocks_add (a b i : Nat) (g : Gen) :
    genBlocks (a + b) i g =
      ((genBlocks a i g).1 ++ (genBlocks b (i + 4 * a) (genBlocks a i g).2).1,
        (genBlocks b (i + 4 * a) (genBlocks a i g).2).2) := by
  induction a generalizing i g with
  | zero =>
    rw [Nat.zero_add]
    rfl
  | succ a ih =>
    rw [Nat.add_right_comm, genBlocks_succ, ih, genBlocks_succ, List.cons_append,
      show i + 4 + 4 * a = i + 4 * (a + 1) by omega]

/-- Within a call, a whole burst more is no difference. -/
theorem genBlocks_add_burst {k i : Nat} (hi : 0 < i) (g : Gen) :
    genBlocks k (i + rngBurstWords) g = genBlocks k i g := by
  induction k generalizing i g with
  | zero => rfl
  | succ k ih =>
    rw [genBlocks_succ, genBlocks_succ, rekeyedAt_add_burst hi, Nat.add_right_comm, ih (Nat.add_pos_left hi 4)]

/-- Going on after a burst is beginning anew after a rekeying. -/
theorem genBlocks_burst (k : Nat) (g : Gen) : genBlocks (k + 1) rngBurstWords g = genBlocks (k + 1) 0 (gate g) := by
  rw [genBlocks_succ, genBlocks_succ, rekeyedAt_burst, rekeyedAt_of_lt (i := 0) (by decide),
    Nat.add_comm rngBurstWords 4, genBlocks_add_burst (by decide)]

theorem generate_of_le {n : Nat} (h : n ≤ rngBurstWords) (g : Gen) :
    generate n g =
      ((((List.range ((n + 3) / 4)).map fun k => bvToBits (streamBlock g (k + 1))).flatten).take (32 * n),
        gate (genAfter ((n + 3) / 4) g)) := by
  have hburst : 0 + 4 * ((n + 3) / 4) ≤ rngBurstWords := by
    rw [rngBurstWords] at *
    omega
  rw [generate, show ceilDiv n 4 = (n + 3) / 4 from rfl, genBlocks_of_le hburst, List.flatMap_def, List.map_map]
  rfl

/-- A generation of more than a burst of `4 q` words is that burst and, from the generator it leaves, the rest. -/
theorem generate_burst_add {q n : Nat} (hq : rngBurstWords = 4 * q) (hn : 0 < n) (g : Gen) :
    generate (rngBurstWords + n) g =
      ((generate rngBurstWords g).1 ++ (generate n (generate rngBurstWords g).2).1,
        (generate n (generate rngBurstWords g).2).2) := by
  obtain ⟨k, hk⟩ : ∃ k, ceilDiv n 4 = k + 1 := ⟨(n - 1) / 4, by rw [ceilDiv]; omega⟩
  have hburst : ceilDiv rngBurstWords 4 = q := by
    rw [ceilDiv]
    omega
  have hcount : ceilDiv (rngBurstWords + n) 4 = q + (k + 1) := by
    rw [← hk, ceilDiv, ceilDiv]
    omega
  have hbits : ((genBlocks q 0 g).1.flatMap bvToBits).length = 32 * rngBurstWords := by
    rw [flatMap_bvToBits_length, genBlocks_length]
    omega
  have hrest : genBlocks (k + 1) (0 + 4 * q) (genBlocks q 0 g).2 = genBlocks (k + 1) 0 (gate (genBlocks q 0 g).2) := by
    rw [Nat.zero_add, ← hq, genBlocks_burst]
  simp only [generate, hcount, hburst, hk, genBlocks_add, hrest, List.flatMap_append, Nat.mul_add, ← hbits,
    List.take_length_add_append, List.take_length]

/-! Reseeds, counters and generation together (R330 to R337) -/

theorem exec_rngWords_of_no_entropy {s : State} (hstrength : s.rng.strength = 0) (hpool : s.rng.poolStrength = 0)
    {l : Nat} (hl : l ≤ 10) {c : ScalIx} (hfits : fitsBuf (32 * s.natAt c) = true) (a : BufIx) :
    exec (.rngWords a c l) s = .next (s.failedTo 0x64 a .generatorNotSeeded) := by
  have hlevel : levelOf s.defParanoia l = l := if_neg (by omega)
  refine exec_rngWords_of_not_ready (rngThreshold_of_le (hlevel.trans_le hl)) hfits ?_ a
  simp [hstrength, hpool]

/-- Settles O55: a reseed by its loop over the pools, the counter by its words, generation as a stream of blocks that
each burst cuts. -/
theorem generatorReseed : Obligations.GeneratorReseed := by
  refine ⟨fun full now noise p => ?_, Ctr.toNat_inc, fun g => ⟨gen4_fst g, gen4_snd_ctr g, rfl, rfl⟩, fun g n => ?_,
    fun s a c l hstrength hpool hl hfits => exec_rngWords_of_no_entropy hstrength hpool hl hfits a⟩
  · obtain ⟨hpool, hstrength⟩ := reseed_strengths full now noise p
    exact ⟨reseed_pools_eq full now noise p, npools_eq _, hpool, hstrength, rfl, rfl, rfl,
      reseed_key full now noise p, rfl, rfl, rfl⟩
  · refine ⟨fun hn => ?_, fun hn => ?_⟩
    · obtain ⟨hkey, hcipher, hctr⟩ := gate_spec (genAfter ((n + 3) / 4) g)
      obtain ⟨-, -, hafter⟩ := genAfter_spec ((n + 3) / 4) g
      rw [streamBlock_genAfter, streamBlock_genAfter] at hkey
      rw [hafter] at hctr
      simp only [generate_of_le (show n ≤ rngBurstWords from hn)]
      exact ⟨rfl, hkey, hcipher, hctr.trans (by omega)⟩
    · have hsplit := generate_burst_add (q := 16384) rfl (Nat.sub_pos_of_lt hn) g
      rw [rngBurstWords, Nat.add_sub_cancel' hn.le] at hsplit
      exact Prod.ext_iff.mp hsplit

end Sys2Proof.Machine
end

section
/-! RC2 (48_legacy_rc2_md5_crc32.md R404 to R406): blocks as words and as strings, and decryption as the inverse of
encryption, step by step. -/

namespace Sys2Proof.Machine

/-! One step and its inverse (R405) -/

/-- Mixing reads the other three words only. -/
theorem rc2Blend_set (r : Rc2Block) (i : Fin 4) (v : BitVec 16) : rc2Blend (r.set i.val v i.isLt) i = rc2Blend r i := by
  have hone : i ≠ i - 1 := by decide +revert
  have htwo : i ≠ i - 2 := by decide +revert
  have hthree : i ≠ i - 3 := by decide +revert
  simp only [rc2Blend, Vector.get_eq_getElem, Vector.getElem_set, Fin.val_inj, if_neg hone, if_neg htwo, if_neg hthree]

/-- Mashing reads the word before it only. -/
theorem rc2MashKey_set (k : Rc2Table) (r : Rc2Block) (i : Fin 4) (v : BitVec 16) :
    rc2MashKey k (r.set i.val v i.isLt) i = rc2MashKey k r i := by
  have hone : i ≠ i - 1 := by decide +revert
  simp only [rc2MashKey, Vector.get_eq_getElem, Vector.getElem_set, Fin.val_inj, if_neg hone]

theorem get_set_self (r : Rc2Block) (i : Fin 4) (v : BitVec 16) : (r.set i.val v i.isLt).get i = v := by
  rw [Vector.get_eq_getElem, Vector.getElem_set_self]

theorem set_set_get (r : Rc2Block) (i : Fin 4) (v : BitVec 16) :
    (r.set i.val v i.isLt).set i.val (r.get i) i.isLt = r := by
  rw [Vector.set_set, Vector.get_eq_getElem, Vector.set_getElem_self]

theorem rotateRight_rotateLeft {w n : Nat} (v : BitVec w) (h : n < w) : (v.rotateLeft n).rotateRight n = v := by
  ext i hi
  simp only [BitVec.getElem_rotateRight, BitVec.getElem_rotateLeft, Nat.mod_eq_of_lt h]
  split_ifs <;> congr 1 <;> omega

theorem rc2Shift_lt (i : Fin 4) : rc2Shift i < 16 := by decide +revert

theorem rc2Undo_rc2Do (k : Rc2Table) (r : Rc2Block) (st : Rc2Step) : rc2Undo k (rc2Do k r st) st = r := by
  cases st with
  | mix i j =>
    have hword : ((r.get i + k.get j + rc2Blend r i).rotateLeft (rc2Shift i)).rotateRight (rc2Shift i) - k.get j -
        rc2Blend r i = r.get i := by
      rw [rotateRight_rotateLeft _ (rc2Shift_lt i)]
      ring
    rw [rc2Do, rc2Undo, rc2Blend_set, get_set_self, hword, set_set_get]
  | mash i =>
    have hword : r.get i + rc2MashKey k r i - rc2MashKey k r i = r.get i := BitVec.add_sub_cancel _ _
    rw [rc2Do, rc2Undo, rc2MashKey_set, get_set_self, hword, set_set_get]

/-! The block function (R404, R406) -/

theorem foldl_reverse_cancel {α β : Type} {f g : α → β → α} (h : ∀ a b, g (f a b) b = a) (l : List β) (a : α) :
    l.reverse.foldl g (l.foldl f a) = a := by
  induction l generalizing a with
  | nil => rfl
  | cons b l ih => rw [List.reverse_cons, List.foldl_append, List.foldl_cons (l := l), ih, List.foldl_cons, List.foldl_nil, h]

theorem rc2Decrypt_rc2Encrypt (k : Rc2Table) (r : Rc2Block) : rc2Decrypt k (rc2Encrypt k r) = r :=
  foldl_reverse_cancel (rc2Undo_rc2Do k) rc2Steps r

theorem byteAt_ofBytes {l : List Byte} {i : Nat} (h : i < l.length) : byteAt (ofBytes l) i = l[i] := by
  have hbytes := bytesOf_eq_map_byteAt (ofBytes_length l)
  rw [bytesOf_ofBytes] at hbytes
  rw [List.getElem_of_eq hbytes, List.getElem_map, List.getElem_range]

theorem rc2Load_ofBytes {a b c d e f g h : Byte} :
    rc2Load (ofBytes [a, b, c, d, e, f, g, h]) = #v[b ++ a, d ++ c, f ++ e, h ++ g] := by
  ext i hi
  interval_cases i <;> simp [rc2Load, byteAt_ofBytes]

theorem rc2Store_words (u v w x : BitVec 16) :
    rc2Store #v[u, v, w, x] = ofBytes [u.extractLsb' 0 8, u.extractLsb' 8 8, v.extractLsb' 0 8, v.extractLsb' 8 8,
      w.extractLsb' 0 8, w.extractLsb' 8 8, x.extractLsb' 0 8, x.extractLsb' 8 8] := by
  simp [rc2Store, ofBytes]

theorem rc2Load_rc2Store (r : Rc2Block) : rc2Load (rc2Store r) = r := by
  have hwords : r = #v[r[0], r[1], r[2], r[3]] := by
    ext i hi
    interval_cases i <;> rfl
  rw [hwords, rc2Store_words, rc2Load_ofBytes]
  simp only [BitVec.extractLsb'_append_extractLsb']

theorem rc2Store_rc2Load {x : Bits} (h : x.length = 64) : rc2Store (rc2Load x) = x := by
  have hbytes : bytesOf x = [byteAt x 0, byteAt x 1, byteAt x 2, byteAt x 3, byteAt x 4, byteAt x 5, byteAt x 6,
    byteAt x 7] := bytesOf_eq_map_byteAt (n := 8) h
  rw [← ofBytes_bytesOf (x := x) (by omega), hbytes, rc2Load_ofBytes, rc2Store_words]
  simp only [BitVec.extractLsb'_append_eq_left, BitVec.extractLsb'_append_eq_right]

theorem rc2D_rc2E (k : Rc2Table) {x : Bits} (h : x.length = 64) : rc2D k (rc2E k x) = x := by
  rw [rc2D, rc2E, rc2Load_rc2Store, rc2Decrypt_rc2Encrypt, rc2Store_rc2Load h]

/-- Settles O58: each step of decryption undoes its step of encryption, the steps in reversed order undo them all, and a
string of 64 bits is the block of its four words. -/
theorem rc2Inverse : Obligations.Rc2Inverse :=
  ⟨rc2Decrypt_rc2Encrypt, fun k _ => rc2D_rc2E k⟩

end Sys2Proof.Machine
end

section
/-! The legacy container (48_legacy_rc2_md5_crc32.md R394 to R414): decryption as the inverse of encryption, and the
legacy commands as equations of the next state. -/

namespace Sys2Proof.Machine

/-! Strings enciphered piece by piece -/

theorem splitEvery_flatMap {n : Nat} (hn : 0 < n) {f : Bits → Bits} (hf : ∀ p, (f p).length = n) (l : List Bits) :
    splitEvery n (l.flatMap f) = l.map f := by
  induction l with
  | nil => rfl
  | cons p l ih => rw [List.flatMap_cons, splitEvery_append hn (hf p), ih, List.map_cons]

theorem flatMap_splitEvery_eq_self {n : Nat} (hn : 0 < n) {x : Bits} (hx : n ∣ x.length) {f : Bits → Bits}
    (hf : ∀ p, p.length = n → f p = p) : (splitEvery n x).flatMap f = x := by
  have hpiece : ∀ p ∈ splitEvery n x, f p = p := fun p hp => hf p (length_of_mem_splitEvery hn hx p hp)
  rw [List.flatMap_def, List.map_congr_left hpiece, List.map_id', flatten_splitEvery hn]

/-- The blocks of the legacy pipeline, each enciphered on its own, come back (R411, R413). -/
theorem flatMap_rc2D_flatMap_rc2E (k : Rc2Table) {x : Bits} (hx : 64 ∣ x.length) :
    (splitEvery 64 ((splitEvery 64 x).flatMap (rc2E k))).flatMap (rc2D k) = x := by
  rw [splitEvery_flatMap (by decide) (rc2E_length k), List.flatMap_map]
  exact flatMap_splitEvery_eq_self (by decide) hx fun p hp => rc2D_rc2E k hp

theorem length_flatMap_rc2E (k : Rc2Table) {x : Bits} (hx : 64 ∣ x.length) :
    ((splitEvery 64 x).flatMap (rc2E k)).length = x.length := by
  rw [flatMap_length_const (n := 64) _ fun p _ => rc2E_length k p, splitEvery_length (by decide), ceilDiv]
  omega

/-! The body and its check value (R410, R413) -/

theorem legacyCheck_length (m : List Byte) : (legacyCheck m).length = 4 := rfl

theorem legacyPlain_length (pt : List Byte) : (legacyPlain pt).length = 8 * ((4 + pt.length + 7) / 8) := by
  rw [legacyPlain, legacyBody, List.length_append, List.length_append, legacyCheck_length, List.length_replicate]
  omega

theorem take_legacyPlain (pt : List Byte) : (legacyPlain pt).take 4 = legacyCheck (legacyBody pt) :=
  List.take_left' rfl

theorem drop_legacyPlain (pt : List Byte) : (legacyPlain pt).drop 4 = legacyBody pt := List.drop_left' rfl

theorem stripNul_eq_rdropWhile (l : List Byte) : stripNul l = l.rdropWhile fun b => b == 0 := rfl

/-- The zeros that fill the last block are removed, and no byte of a text that does not end in one (R414). -/
theorem stripNul_append_replicate {l : List Byte} (h : l.getLast? ≠ some 0) (n : Nat) :
    stripNul (l ++ List.replicate n 0) = l := by
  rw [stripNul_eq_rdropWhile]
  induction n with
  | zero =>
    rw [List.replicate_zero, List.append_nil, List.rdropWhile_eq_self_iff]
    intro hl hlast
    rw [List.getLast?_eq_some_getLast hl, beq_iff_eq.mp hlast] at h
    exact h rfl
  | succ n ih => rw [List.replicate_succ', ← List.append_assoc, List.rdropWhile_concat_pos _ _ _ rfl, ih]

/-! Decryption undoes encryption (R414) -/

/-- The blob of a plaintext before it is written as text (R413). -/
def legacyBlob (pw : Bits) (pt : List Byte) : Bits :=
  (splitEvery 64 (ofBytes (legacyPlain pt))).flatMap (rc2E (legacyTable pw))

theorem dvd_legacyPlain_length (pt : List Byte) : 64 ∣ (ofBytes (legacyPlain pt)).length := by
  rw [ofBytes_length, legacyPlain_length]
  omega

theorem legacyBlob_length (pw : Bits) (pt : List Byte) :
    (legacyBlob pw pt).length = 64 * ((4 + pt.length + 7) / 8) := by
  rw [legacyBlob, length_flatMap_rc2E _ (dvd_legacyPlain_length pt), ofBytes_length, legacyPlain_length]
  omega

theorem legacyEncrypt_eq_ite (pw pt : Bits) :
    legacyEncrypt pw pt =
      if fitsBuf (8 * (b64EncodeBytes false false (legacyBlob pw (bytesOf pt))).length) then
        .ok (ofBytes (b64EncodeBytes false false (legacyBlob pw (bytesOf pt))))
      else .error .bufferOverflow := by
  rw [b64EncodeBytes_length]
  rfl

/-- The bytes a blob deciphers to (R411). -/
def legacyOpened (pw d : Bits) : List Byte := bytesOf ((splitEvery 64 d).flatMap (rc2D (legacyTable pw)))

theorem legacyOpened_legacyBlob (pw : Bits) (pt : List Byte) : legacyOpened pw (legacyBlob pw pt) = legacyPlain pt := by
  rw [legacyOpened, legacyBlob, flatMap_rc2D_flatMap_rc2E _ (dvd_legacyPlain_length pt), bytesOf_ofBytes]

/-- A blob that is no base64 text is refused. -/
theorem legacyDecrypt_of_none {pw blob : Bits} (h : b64DecodeBytes false (bytesOf blob) = none) :
    legacyDecrypt pw blob = .error .badPassword := by
  rw [legacyDecrypt, h]

/-- A decoded blob: whole blocks, the check value, then the body without its trailing zeros (R411). -/
theorem legacyDecrypt_of_some {pw blob d : Bits} (h : b64DecodeBytes false (bytesOf blob) = some d) :
    legacyDecrypt pw blob =
      if d.length = 0 ∨ d.length % 64 ≠ 0 then .error .badPassword
      else if (legacyOpened pw d).take 4 = legacyCheck ((legacyOpened pw d).drop 4) then
        .ok (ofBytes (stripNul ((legacyOpened pw d).drop 4)))
      else .error .badPassword := by
  obtain ⟨-, hbytes⟩ := b64DecodeBytes_length h
  rw [legacyDecrypt, h]
  exact if_congr (by omega) rfl rfl

/-- Settles O59: the text is read back as the blob, the blocks are deciphered one by one, the check value is that of the
body, and the body is the text with its zeros removed. -/
theorem legacyRoundTrip : Obligations.LegacyRoundTrip := by
  intro pw pt t hbytes hlast henc
  rw [legacyEncrypt_eq_ite] at henc
  split_ifs at henc
  obtain rfl := Except.ok.inj henc
  have hlen := legacyBlob_length pw (bytesOf pt)
  have hdecode : b64DecodeBytes false (bytesOf (ofBytes (b64EncodeBytes false false (legacyBlob pw (bytesOf pt))))) =
      some (legacyBlob pw (bytesOf pt)) := by
    rw [bytesOf_ofBytes, b64DecodeBytes_b64EncodeBytes _ _ (by omega)]
  rw [legacyDecrypt_of_some hdecode, legacyOpened_legacyBlob, take_legacyPlain, drop_legacyPlain, if_neg (by omega),
    if_pos rfl, legacyBody, stripNul_append_replicate hlast, ofBytes_bytesOf hbytes]

/-! The commands (R394, R398, R403, R407, R408, R412, R414) -/

section
variable (s : State) (a b c : BufIx)

theorem exec_md5 :
    exec (.md5 a b) s =
      resultToBuf 0x80 a
        (if (s.bufAt b).length % 8 ≠ 0 then .error .invalidParameter else .ok (ofBytes (md5 (bytesOf (s.bufAt b))))) s :=
  rfl

theorem exec_crc32 (j : ScalIx) :
    exec (.crc32 j b) s =
      resultToScal 0x81 j
        (if (s.bufAt b).length % 8 ≠ 0 then .error .invalidParameter else .ok (crc32 (bytesOf (s.bufAt b)))) s := rfl

theorem exec_rc2Key (j : ScalIx) :
    exec (.rc2Key b j) s =
      if (s.bufAt b).length % 8 ≠ 0 ∨ (s.bufAt b).length = 0 ∨ 1024 < (s.bufAt b).length then
        .next (s.fail 0x82 .invalidKeySize)
      else if s.natAt j < 1 ∨ 1024 < s.natAt j then .next (s.fail 0x82 .invalidParameter)
      else .next ((s.setRk (rc2Table (bytesOf (s.bufAt b)) (s.natAt j))).succeed 0x82) := rfl

theorem exec_rc2Enc : exec (.rc2Enc a b) s = resultToBuf 0x83 a (rc2OneBlock s.rk rc2E (s.bufAt b)) s := rfl

theorem exec_rc2Dec : exec (.rc2Dec a b) s = resultToBuf 0x84 a (rc2OneBlock s.rk rc2D (s.bufAt b)) s := rfl

theorem exec_legacyDec :
    exec (.legacyDec a b c) s =
      resultToBuf 0x85 a (bytesOperands (s.bufAt b) (s.bufAt c) (legacyDecrypt (s.bufAt b) (s.bufAt c))) s := rfl

theorem exec_legacyEnc :
    exec (.legacyEnc a b c) s =
      resultToBuf 0x86 a (bytesOperands (s.bufAt b) (s.bufAt c) (legacyEncrypt (s.bufAt b) (s.bufAt c))) s := rfl

end

theorem resultToBuf_rc2OneBlock_none (op : Byte) (a : BufIx) (f : Rc2Table → Bits → Bits) (x : Bits) (s : State) :
    resultToBuf op a (rc2OneBlock none f x) s = .next (s.failedTo op a .invalidState) := rfl

theorem resultToBuf_rc2OneBlock_some (op : Byte) (a : BufIx) (k : Rc2Table) (f : Rc2Table → Bits → Bits) (x : Bits)
    (s : State) :
    resultToBuf op a (rc2OneBlock (some k) f x) s =
      if x.length = 64 then .next (s.wrote op a (f k x)) else .next (s.failedTo op a .invalidBlockSize) := by
  rw [rc2OneBlock, resultToBuf_ite, ite_not, resultToBuf_ok, resultToBuf_error]

/-- Settles O37: each command is its tests in order and its result; the two pipelines are the functions above. -/
theorem legacyCommands : Obligations.LegacyCommands := by
  refine fun s => ⟨fun a b => ?_, fun a b => ?_, fun b c => ?_, fun a b => ?_, fun a b => ?_, fun a b c => ?_,
    fun a b c => ?_⟩
  · rw [exec_md5, ite_not, resultToBuf_ite, resultToBuf_ok, resultToBuf_error]
  · rw [exec_crc32, ite_not, resultToScal_ite, resultToScal_ok, resultToScal_error]
  · rw [exec_rc2Key]
    refine if_congr Iff.rfl rfl ?_
    rw [← ite_not]
    exact if_congr (by omega) rfl rfl
  · rw [exec_rc2Enc]
    cases s.rk with
    | none => exact resultToBuf_rc2OneBlock_none _ _ _ _ _
    | some k => exact resultToBuf_rc2OneBlock_some _ _ _ _ _ _
  · rw [exec_rc2Dec]
    cases s.rk with
    | none => exact resultToBuf_rc2OneBlock_none _ _ _ _ _
    | some k => exact resultToBuf_rc2OneBlock_some _ _ _ _ _ _
  · rw [exec_legacyDec, bytesOperands, resultToBuf_ite, resultToBuf_error]
    refine if_congr Iff.rfl rfl ?_
    cases hd : b64DecodeBytes false (bytesOf (s.bufAt c)) with
    | none => rw [legacyDecrypt_of_none hd, resultToBuf_error]
    | some d =>
      rw [legacyDecrypt_of_some hd, resultToBuf_ite, resultToBuf_ite, resultToBuf_ok, resultToBuf_error]
      rfl
  · rw [exec_legacyEnc, bytesOperands, resultToBuf_ite, resultToBuf_error, legacyEncrypt_eq_ite, resultToBuf_ite,
      resultToBuf_ok, resultToBuf_error]
    rfl

end Sys2Proof.Machine
end

section
/-! The current container and the dispatcher (49_containers_dispatch.md R430 to R438): the fields of a container by their
places, what the wire format builds, and the commands as equations of the next state. -/

namespace Sys2Proof.Machine

/-! The fields of a container (R431, R432) -/

/-- The container of a decoded blob, field by field (R431). -/
def enc0Fields (d : Bits) : Enc0 where
  salt := (d.drop 32).take 128
  saltHmac := (d.drop 160).take 128
  iv := (d.drop 288).take 128
  ct := (d.drop 416).take (8 * (d.length / 8 - 84))
  signed := d.take (8 * (d.length / 8 - 32))
  tag := d.drop (8 * (d.length / 8 - 32))

/-- The blob has the form of a container (R432). -/
def IsEnc0 (d : Bits) : Prop :=
  ¬ (d.length / 8 < 100 ∨ (d.length / 8 - 84) % 16 ≠ 0 ∨ d.take 32 ≠ ofBytes enc0Magic)

theorem enc0Frame_eq_none {d : Bits} (h : ¬ IsEnc0 d) : enc0Frame d = none := by
  rw [IsEnc0, not_not, ← or_assoc] at h
  unfold enc0Frame
  dsimp only
  split_ifs with hlen hmagic
  · rfl
  · rfl
  · exact absurd h (not_or.mpr ⟨hlen, hmagic⟩)

theorem enc0Frame_eq_some {d : Bits} (hbytes : d.length % 8 = 0) (h : IsEnc0 d) :
    enc0Frame d = some (enc0Fields d) := by
  obtain ⟨hmin, hmod, hmagic⟩ : _ ∧ _ ∧ _ := by simpa only [IsEnc0, not_or] using h
  have hfields : enc0Fields d =
      { salt := slice d (8 * 4) (8 * 20), saltHmac := slice d (8 * 20) (8 * 36), iv := slice d (8 * 36) (8 * 52)
        ct := slice d (8 * 52) (8 * (d.length / 8 - 32)), signed := slice d 0 (8 * (d.length / 8 - 32))
        tag := slice d (8 * (d.length / 8 - 32)) (8 * (d.length / 8)) } := by
    have hend : 8 * (d.length / 8) = d.length := by omega
    have hct : 8 * (d.length / 8 - 32) - 8 * 52 = 8 * (d.length / 8 - 84) := by omega
    rw [hend]
    simp only [slice_eq_take_drop, enc0Fields, hct, List.drop_zero, Nat.sub_zero]
    rw [List.take_of_length_le (i := d.length - 8 * (d.length / 8 - 32)) List.length_drop.le]
  unfold enc0Frame
  dsimp only
  rw [if_neg (not_or.mpr ⟨hmin, hmod⟩), if_neg (by rwa [slice, List.drop_zero]), ← hfields]

/-! Decryption (R432, R434) -/

theorem enc0Decrypt_of_none {pw blob : Bits} (h : b64DecodeBytes false (bytesOf blob) = none) :
    enc0Decrypt pw blob = .error .badPassword := by
  rw [enc0Decrypt, h]

theorem enc0Decrypt_of_not_isEnc0 {pw blob d : Bits} (hd : b64DecodeBytes false (bytesOf blob) = some d)
    (h : ¬ IsEnc0 d) : enc0Decrypt pw blob = .error .badPassword := by
  rw [enc0Decrypt, hd]
  dsimp only
  rw [enc0Frame_eq_none h]

/-- A blob of the right form: the tag is checked first, and an error of the mode is `BadPassword` (R432, R434). -/
theorem enc0Decrypt_of_isEnc0 {pw blob d : Bits} (hd : b64DecodeBytes false (bytesOf blob) = some d) (h : IsEnc0 d) :
    enc0Decrypt pw blob =
      if hmacOf .sha256 (enc0Key pw (enc0Fields d).saltHmac) (enc0Fields d).signed ≠ (enc0Fields d).tag then
        .error .badPassword
      else
        (cbcDecrypt (aesContext (enc0Key pw (enc0Fields d).salt)) (enc0Fields d).ct (enc0Fields d).iv []).mapError
          fun _ => .badPassword := by
  obtain ⟨-, hbytes⟩ := b64DecodeBytes_length hd
  rw [enc0Decrypt, hd]
  dsimp only
  rw [enc0Frame_eq_some hbytes h]
  refine if_congr Iff.rfl rfl ?_
  cases cbcDecrypt (aesContext (enc0Key pw (enc0Fields d).salt)) (enc0Fields d).ct (enc0Fields d).iv [] <;> rfl

/-! A container built by the wire format (R430, R431) -/

/-- What the wire format puts together (R431). -/
def enc0Build (salt saltH iv ct tag : Bits) : Bits := ofBytes enc0Magic ++ salt ++ saltH ++ iv ++ ct ++ tag

theorem enc0Build_length {salt saltH iv ct tag : Bits} (hsalt : salt.length = 128) (hsaltH : saltH.length = 128)
    (hiv : iv.length = 128) (htag : tag.length = 256) :
    (enc0Build salt saltH iv ct tag).length = 672 + ct.length := by
  have hmagic : (ofBytes enc0Magic).length = 32 := rfl
  simp only [enc0Build, List.length_append, hmagic, hsalt, hsaltH, hiv, htag]
  omega

theorem isEnc0_enc0Build {salt saltH iv ct tag : Bits} (hsalt : salt.length = 128) (hsaltH : saltH.length = 128)
    (hiv : iv.length = 128) (htag : tag.length = 256) (hpos : 0 < ct.length) (hct : 128 ∣ ct.length) :
    IsEnc0 (enc0Build salt saltH iv ct tag) := by
  have hlen := enc0Build_length (ct := ct) hsalt hsaltH hiv htag
  have hmagic : (enc0Build salt saltH iv ct tag).take 32 = ofBytes enc0Magic := by
    simp only [enc0Build, List.append_assoc]
    exact List.take_left' rfl
  simp only [IsEnc0, hmagic, hlen, ne_eq, not_true, or_false]
  omega

/-- A field at its place: the part of a string after a part of `n` bits. -/
theorem take_drop_append {p x q d : Bits} {n m : Nat} (hd : d = p ++ (x ++ q)) (hp : p.length = n)
    (hx : x.length = m) : (d.drop n).take m = x := by
  rw [hd, List.drop_left' hp, List.take_left' hx]

theorem enc0Fields_enc0Build {salt saltH iv ct tag : Bits} (hsalt : salt.length = 128) (hsaltH : saltH.length = 128)
    (hiv : iv.length = 128) (htag : tag.length = 256) (hct : 128 ∣ ct.length) :
    enc0Fields (enc0Build salt saltH iv ct tag) =
      { salt := salt, saltHmac := saltH, iv := iv, ct := ct
        signed := ofBytes enc0Magic ++ salt ++ saltH ++ iv ++ ct, tag := tag } := by
  have hlen := enc0Build_length (ct := ct) hsalt hsaltH hiv htag
  have hmagic : (ofBytes enc0Magic).length = 32 := rfl
  have hctLen : ct.length = 8 * ((enc0Build salt saltH iv ct tag).length / 8 - 84) := by omega
  have hsigned : (ofBytes enc0Magic ++ salt ++ saltH ++ iv ++ ct).length =
      8 * ((enc0Build salt saltH iv ct tag).length / 8 - 32) := by
    simp only [List.length_append]
    omega
  rw [enc0Fields, Enc0.mk.injEq]
  refine ⟨take_drop_append (p := ofBytes enc0Magic) (q := saltH ++ iv ++ ct ++ tag) ?_ hmagic hsalt,
    take_drop_append (p := ofBytes enc0Magic ++ salt) (q := iv ++ ct ++ tag) ?_ ?_ hsaltH,
    take_drop_append (p := ofBytes enc0Magic ++ salt ++ saltH) (q := ct ++ tag) ?_ ?_ hiv,
    take_drop_append (p := ofBytes enc0Magic ++ salt ++ saltH ++ iv) (q := tag) ?_ ?_ hctLen,
    List.take_left' hsigned, List.drop_left' hsigned⟩
  all_goals simp only [enc0Build, List.append_assoc, List.length_append, hmagic, hsalt, hsaltH, hiv]

/-- Settles O60: the text is read back, every field is found at its place, the tag is the one computed, and CBC gives the
plaintext back. -/
theorem enc0Accepts : Obligations.Enc0Accepts := by
  intro pw salt saltH iv pt ct nopad hsalt hsaltH hiv henc signed tag
  obtain ⟨-, hbytes, hct⟩ := cbcEncrypt_eq_ok henc
  have hpadded := cbcPadded_length_eq hbytes
  have hwhole : 128 ∣ (cbcPadded pt).length := Dvd.intro _ hpadded.symm
  have hctLen : ct.length = (cbcPadded pt).length := hct ▸ length_flatMap_cbcChainEnc _ _ hwhole
  have hdvd : 128 ∣ ct.length := hctLen ▸ hwhole
  have htag : tag.length = 256 := hmacOf_length _ _ _
  have hlen := enc0Build_length (ct := ct) hsalt hsaltH hiv htag
  have hdecode : b64DecodeBytes false (bytesOf (ofBytes (b64EncodeBytes false nopad (signed ++ tag)))) =
      some (enc0Build salt saltH iv ct tag) := by
    rw [bytesOf_ofBytes]
    exact b64DecodeBytes_b64EncodeBytes _ _ (x := enc0Build salt saltH iv ct tag) (by omega)
  rw [enc0Decrypt_of_isEnc0 hdecode (isEnc0_enc0Build hsalt hsaltH hiv htag (by omega) hdvd),
    enc0Fields_enc0Build hsalt hsaltH hiv htag hdvd]
  have hmac : hmacOf .sha256 (enc0Key pw saltH) (ofBytes enc0Magic ++ salt ++ saltH ++ iv ++ ct) = tag := rfl
  have hdec : cbcDecrypt (aesContext (enc0Key pw salt)) ct iv [] = .ok pt := cbcRoundTrip _ _ _ _ _ henc
  dsimp only
  rw [if_neg (not_not.mpr hmac), hdec]
  rfl

/-! Every error of the two containers is `BadPassword` (R411, R434) -/

theorem legacyDecrypt_eq_error {pw blob : Bits} {e : Err} (h : legacyDecrypt pw blob = .error e) :
    e = .badPassword := by
  cases hd : b64DecodeBytes false (bytesOf blob) with
  | none => exact (Except.error.inj ((legacyDecrypt_of_none hd).symm.trans h)).symm
  | some d =>
    rw [legacyDecrypt_of_some hd] at h
    split_ifs at h <;> exact (Except.error.inj h).symm

theorem enc0Decrypt_eq_error {pw blob : Bits} {e : Err} (h : enc0Decrypt pw blob = .error e) : e = .badPassword := by
  cases hd : b64DecodeBytes false (bytesOf blob) with
  | none => exact (Except.error.inj ((enc0Decrypt_of_none hd).symm.trans h)).symm
  | some d =>
    by_cases hform : IsEnc0 d
    · rw [enc0Decrypt_of_isEnc0 hd hform] at h
      split at h
      next => exact (Except.error.inj h).symm
      next =>
        revert h
        cases cbcDecrypt (aesContext (enc0Key pw (enc0Fields d).salt)) (enc0Fields d).ct (enc0Fields d).iv [] with
        | ok x => exact nofun
        | error x => exact fun h => (Except.error.inj h).symm
    · exact (Except.error.inj ((enc0Decrypt_of_not_isEnc0 hd hform).symm.trans h)).symm

/-! The commands (R432, R437, R438) -/

section
variable (s : State) (a b c d : BufIx)

theorem exec_enc0Dec :
    exec (.enc0Dec a b c) s =
      resultToBuf 0x90 a (bytesOperands (s.bufAt b) (s.bufAt c) (enc0Decrypt (s.bufAt b) (s.bufAt c))) s := rfl

theorem exec_dispatchDec (e : ScalIx) :
    exec (.dispatchDec a b c d e) s =
      resultToBuf 0x91 a (dispatchDecrypt (s.bufAt d) (s.bufAt b) (s.bufAt c)) s := rfl

end

/-- The tag is looked at before the operands, and the operands before the container (R438). -/
theorem dispatchDecrypt_eq_ite (tag pw blob : Bits) :
    dispatchDecrypt tag pw blob =
      if tag ≠ ofBytes tagAes ∧ tag ≠ ofBytes tagRc2 then .error .unsupportedCipher
      else if pw.length % 8 ≠ 0 ∨ blob.length % 8 ≠ 0 then .error .invalidParameter
      else if tag = ofBytes tagAes then enc0Decrypt pw blob else legacyDecrypt pw blob := by
  rw [dispatchDecrypt]
  by_cases haes : tag = ofBytes tagAes
  · rw [if_pos haes, if_pos haes, if_neg (fun h => h.1 haes), bytesOperands]
  · rw [if_neg haes, if_neg haes]
    by_cases hrc2 : tag = ofBytes tagRc2
    · rw [if_pos hrc2, if_neg (fun h => h.2 hrc2), bytesOperands]
    · rw [if_neg hrc2, if_pos ⟨haes, hrc2⟩]

/-- Settles O38: the decoded blob is either no container, or its fields are those of R431; the dispatcher looks at the
tag first, and both containers have one error. -/
theorem containerCommands : Obligations.ContainerCommands := by
  refine fun s => ⟨fun a b c => ?_, fun a b c d e => ?_⟩
  · rw [exec_enc0Dec, bytesOperands, resultToBuf_ite, resultToBuf_error]
    refine if_congr Iff.rfl rfl ?_
    cases hd : b64DecodeBytes false (bytesOf (s.bufAt c)) with
    | none => rw [enc0Decrypt_of_none hd, resultToBuf_error]
    | some d =>
      by_cases hform : IsEnc0 d
      · rw [enc0Decrypt_of_isEnc0 hd hform, resultToBuf_ite, resultToBuf_error]
        refine Eq.trans ?_ (if_neg hform).symm
        refine if_congr Iff.rfl rfl ?_
        dsimp only [enc0Key, enc0Fields, enc0Iter]
        split
        next x hx =>
          rw [hx]
          rfl
        next x hx =>
          rw [hx]
          rfl
      · rw [enc0Decrypt_of_not_isEnc0 hd hform, resultToBuf_error]
        exact (if_pos (not_not.mp hform)).symm
  · have haes : ofBytes [0x41, 0x45, 0x53] = ofBytes tagAes := rfl
    have hrc2 : ofBytes [0x52, 0x43, 0x32] = ofBytes tagRc2 := rfl
    have hbad : ∀ x, (if s.bufAt d = ofBytes tagAes then enc0Decrypt (s.bufAt b) (s.bufAt c)
        else legacyDecrypt (s.bufAt b) (s.bufAt c)) = .error x → x = .badPassword := by
      intro x hx
      split at hx
      · exact enc0Decrypt_eq_error hx
      · exact legacyDecrypt_eq_error hx
    rw [haes, hrc2, exec_dispatchDec, dispatchDecrypt_eq_ite, resultToBuf_ite, resultToBuf_ite, resultToBuf_error,
      resultToBuf_error]
    refine if_congr Iff.rfl rfl (if_congr Iff.rfl rfl ?_)
    cases hr : (if s.bufAt d = ofBytes tagAes then enc0Decrypt (s.bufAt b) (s.bufAt c)
        else legacyDecrypt (s.bufAt b) (s.bufAt c)) with
    | ok x => exact resultToBuf_ok _ _ _ _
    | error x => exact hbad x hr ▸ resultToBuf_error _ _ _ _

end Sys2Proof.Machine
end

section
/-! Reset (70_reset_and_hazards.md R490, R491), that no step stops (60_exceptions.md R450), and error entry (R456). -/

namespace Sys2Proof.Machine

/-! Reset (R491) -/

/-- Settles O12: the table is the reset state read register by register, and its hidden parts field by field. -/
theorem resetState : Obligations.ResetState := by
  refine ⟨?_, ?_, ?_, ?_, rfl, ?_, rfl, rfl, rfl, rfl, rfl, rfl, ?_, rfl, rfl, rfl, rfl⟩ <;> decide

/-- Settles O13: each invariant holds at reset. -/
theorem resetInvariants : Obligations.ResetInvariants :=
  ⟨statusInv_reset, slotInv_reset, bufferInv_reset, generatorInv_reset⟩

/-! Every command answers a next state (R450) -/

/-- The outcome is a next state: no fault, and no refusal. -/
def Answers (o : Out) : Prop := ∃ t, o = .next t

theorem answers_next (t : State) : Answers (.next t) := ⟨t, rfl⟩

theorem answers_ite {c : Prop} [Decidable c] {o o' : Out} (h : Answers o) (h' : Answers o') :
    Answers (if c then o else o') := by
  split
  · exact h
  · exact h'

theorem answers_resultToBuf (op : Byte) (a : BufIx) (r : Except Err Bits) (s : State) :
    Answers (resultToBuf op a r s) := by
  cases r <;> exact answers_next _

theorem answers_resultToScal (op : Byte) (a : ScalIx) (r : Except Err Word) (s : State) :
    Answers (resultToScal op a r s) := by
  cases r <;> exact answers_next _

section
variable {s : State}

/-- An entropy event finds its pool (R325). -/
theorem answers_finishEntropy (h : GeneratorInv s.rng) (op : Byte) (kind : Nat) (body : Bits) (n est : Nat)
    (tag : TagIx) : Answers (finishEntropy op (addEntropy s.rng s.now kind body n est tag) s) := by
  obtain ⟨hdone, hraised⟩ := finishEntropy_addEntropy h op kind body n est tag
  by_cases hfits : EventFits s.rng body est tag
  · obtain ⟨p, hp, -⟩ := hdone hfits
    exact ⟨_, hp⟩
  · exact ⟨_, hraised hfits⟩

/-- A generator that is ready has a cipher (R331). -/
theorem answers_rngWords (h : GeneratorInv s.rng) (a : BufIx) (c : ScalIx) (level : Nat) :
    Answers (exec (.rngWords a c level) s) := by
  cases ht : rngThreshold level s.defParanoia with
  | error e => exact ⟨_, exec_rngWords_of_error ht a c⟩
  | ok t =>
    cases hfits : fitsBuf (32 * s.natAt c) with
    | false => exact ⟨_, exec_rngWords_of_overflow ht hfits a⟩
    | true =>
      by_cases hready : ¬ s.rng.Seeded t ∧ ¬ s.rng.Pooled t
      · exact ⟨_, exec_rngWords_of_not_ready ht hfits hready a⟩
      · obtain ⟨k, hk⟩ := exists_cipher_of_ready h hready s.now s.noiseBits
        exact ⟨_, exec_rngWords_of_ready ht hfits hready rfl hk a⟩

theorem answers_hashUpdate (a : HashIx) (b : BufIx) : Answers (exec (.hashUpdate a b) s) := by
  cases hc : s.hashAt a with
  | none => exact ⟨_, exec_hashUpdate_of_empty hc b⟩
  | some c =>
    rw [exec_hashUpdate_of_full hc b]
    exact answers_ite (answers_next _) (answers_next _)

theorem answers_hashFinal (a : BufIx) (e : HashIx) : Answers (exec (.hashFinal a e) s) := by
  cases hc : s.hashAt e with
  | none => exact ⟨_, exec_hashFinal_of_empty hc a⟩
  | some c => exact ⟨_, exec_hashFinal_of_full hc a⟩

theorem answers_envParse (b : BufIx) : Answers (exec (.envParse b) s) := by
  show Answers (execEnvParse b s)
  unfold execEnvParse
  split <;> exact answers_next _

theorem answers_exec (h : GeneratorInv s.rng) (i : Instr) : Answers (exec i s) := by
  cases i with
  | nop | zeroize | baClamp | baEqual | baGetPartial | hashReset | hashDigest | hmac => exact answers_next _
  | baLen | baExtract | rngIsReady | crc32 => exact answers_resultToScal _ _ _ _
  | aesKey a b =>
    rw [exec_aesKey]
    exact answers_ite (answers_next _) (answers_next _)
  | hashUpdate a b => exact answers_hashUpdate a b
  | hashFinal a e => exact answers_hashFinal a e
  | pbkdf2Init b c d e alg =>
    rw [exec_pbkdf2Init]
    exact answers_ite (answers_next _) (answers_ite (answers_next _) (answers_next _))
  | pbkdf2Step a b =>
    rw [exec_pbkdf2Step]
    exact answers_ite (answers_next _) (answers_next _)
  | pbkdf2Read a =>
    rw [exec_pbkdf2Read]
    exact answers_ite (answers_next _) (answers_next _)
  | rngAddentN b c tag d => exact answers_finishEntropy h _ _ _ _ _ _
  | rngAddentW b c tag d =>
    rw [exec_rngAddentW]
    exact answers_ite (answers_finishEntropy h _ _ _ _ _ _) (answers_next _)
  | rngAddentS b c tag d =>
    rw [exec_rngAddentS]
    exact answers_ite (answers_finishEntropy h _ _ _ _ _ _) (answers_next _)
  | rngWords a c level => exact answers_rngWords h a c level
  | envParse b => exact answers_envParse b
  | rc2Key b c => exact answers_ite (answers_next _) (answers_ite (answers_next _) (answers_next _))
  | _ => exact answers_resultToBuf _ _ _ _

end

/-- Settles O18: the host's other actions have a next state by definition, an illegal word is an error entry, and every
command answers. -/
theorem noStepStops : Obligations.NoStepStops := by
  intro s h
  cases hin : s.hostIn with
  | nil => exact ⟨s, step_of_idle hin⟩
  | cons action rest =>
    cases action with
    | read addr size => exact ⟨_, step_read hin⟩
    | write addr size v =>
      by_cases hr : hostReg addr size = .cmd
      · rw [step, takeAction_write_cmd hin hr]
        dsimp only [runWord]
        split
        next => exact answers_next _
        next i _ => exact answers_exec (s := { s with hostIn := rest, cmd := v }) h i
      · exact ⟨_, step_of_settled (takeAction_write hin hr)⟩
    | setTime now => exact ⟨_, step_of_settled (takeAction_setTime hin)⟩
    | setNoise noise => exact ⟨_, step_of_settled (takeAction_setNoise hin)⟩
    | reset => exact ⟨_, step_of_settled (takeAction_reset hin)⟩

/-! Success and error entry (R456) -/

/-- Settles O19, by the ends of a command: the two that fail write what error entry writes, all others end in success. -/
theorem commandEnds : Obligations.CommandEnds := by
  refine ⟨fun i s t h => ?_, fun cw s => rfl⟩
  cases commandEnd_of_exec h with
  | failed e hi =>
    refine ⟨fun _ => ⟨e, ?_⟩, nofun⟩
    rw [hi]
    rfl
  | failedTo e ha =>
    refine ⟨fun _ => ⟨e, ?_⟩, nofun⟩
    rw [ha]
    rfl
  | _ => exact ⟨nofun, fun _ => ⟨rfl, rfl, rfl, rfl⟩⟩

end Sys2Proof.Machine
end

section
/-! The errors of each command (60_exceptions.md R453): which errors each function can answer, and that a command raises
no other. -/

namespace Sys2Proof.Machine

/-! Results whose error is one of a list -/

/-- An error that is answered is in the list. -/
def ErrorsIn {α : Type} (l : List Err) (r : Except Err α) : Prop := ∀ e, r = .error e → e ∈ l

section
variable {α β : Type} {l m : List Err} {r r' : Except Err α}

theorem errorsIn_ok (x : α) : ErrorsIn l (.ok x) := nofun

theorem errorsIn_error {e : Err} (h : e ∈ l) : ErrorsIn l (.error e : Except Err α) := by
  rintro _ ⟨⟩
  exact h

theorem ErrorsIn.mono (h : ErrorsIn l r) (hlm : l ⊆ m) : ErrorsIn m r := fun e he => hlm (h e he)

theorem errorsIn_ite {c : Prop} [Decidable c] (h : ErrorsIn l r) (h' : ErrorsIn l r') :
    ErrorsIn l (if c then r else r') := by
  split
  · exact h
  · exact h'

theorem ErrorsIn.map {f : α → β} (h : ErrorsIn l r) : ErrorsIn l (r.map f) := by
  cases r with
  | ok x => exact nofun
  | error e => exact errorsIn_error (h e rfl)

theorem errorsIn_withKey {k : Option AesCtx} {f : AesCtx → Except Err Bits} (hstate : .invalidState ∈ l)
    (h : ∀ c, ErrorsIn l (f c)) : ErrorsIn l (withKey k f) := by
  cases k with
  | none => exact errorsIn_error hstate
  | some c => exact h c

theorem errorsIn_bytesOperands {pw x : Bits} {r : Except Err Bits} (hparam : .invalidParameter ∈ l)
    (h : ErrorsIn l r) : ErrorsIn l (bytesOperands pw x r) :=
  errorsIn_ite (errorsIn_error hparam) h

end

/-! The modes (R261 to R310) -/

theorem errorsIn_cbcEncrypt (k : AesCtx) (pt iv adata : Bits) :
    ErrorsIn [.notSupported, .invalidIV, .invalidParameter, .bufferOverflow] (cbcEncrypt k pt iv adata) := by
  intro e h
  rw [cbcEncrypt_eq_ite] at h
  split_ifs at h <;> cases h <;> decide

theorem errorsIn_cbcDecrypt (k : AesCtx) (ct iv adata : Bits) :
    ErrorsIn [.notSupported, .invalidIV, .corruptPadding] (cbcDecrypt k ct iv adata) := by
  intro e h
  rw [cbcDecrypt_eq_ite] at h
  dsimp only at h
  split_ifs at h <;> cases h <;> decide

theorem errorsIn_ccmEncrypt (k : AesCtx) (pt iv adata : Bits) (tlen : Nat) :
    ErrorsIn [.invalidParameter, .invalidIV, .bufferOverflow] (ccmEncrypt k pt iv adata tlen) := by
  intro e h
  rw [ccmEncrypt_eq_ite] at h
  split_ifs at h <;> cases h <;> decide

theorem errorsIn_ccmDecrypt (k : AesCtx) (ct iv adata : Bits) (tlen : Nat) :
    ErrorsIn [.invalidParameter, .invalidIV, .corruptTag] (ccmDecrypt k ct iv adata tlen) := by
  intro e h
  rw [ccmDecrypt_eq_ite] at h
  dsimp only at h
  split_ifs at h <;> cases h <;> decide

theorem errorsIn_ocbEncrypt (k : AesCtx) (pt iv adata : Bits) (tlen : Nat) :
    ErrorsIn [.invalidIV, .invalidParameter, .bufferOverflow] (ocbEncrypt k pt iv adata tlen) := by
  intro e h
  rw [ocbEncrypt_eq_ite] at h
  split_ifs at h <;> cases h <;> decide

theorem errorsIn_ocbDecrypt (k : AesCtx) (ct iv adata : Bits) (tlen : Nat) :
    ErrorsIn [.invalidIV, .invalidParameter, .corruptTag] (ocbDecrypt k ct iv adata tlen) := by
  intro e h
  rw [ocbDecrypt_eq_ite] at h
  dsimp only at h
  split_ifs at h <;> cases h <;> decide

theorem errorsIn_gcmEncrypt (k : AesCtx) (pt iv adata : Bits) (tlen : Nat) :
    ErrorsIn [.invalidParameter, .invalidIV, .bufferOverflow] (gcmEncrypt k pt iv adata tlen) := by
  intro e h
  rw [gcmEncrypt_eq_ite] at h
  dsimp only at h
  split_ifs at h <;> cases h <;> decide

theorem errorsIn_gcmDecrypt (k : AesCtx) (ct iv adata : Bits) (tlen : Nat) :
    ErrorsIn [.invalidParameter, .invalidIV, .corruptTag] (gcmDecrypt k ct iv adata tlen) := by
  intro e h
  rw [gcmDecrypt_eq_ite] at h
  dsimp only at h
  split_ifs at h <;> cases h <;> decide

/-! Bit strings, codecs and blocks (R133 to R147, R184, R407) -/

theorem errorsIn_baSlice (x : Bits) (start stop : Nat) : ErrorsIn [.invalidParameter] (baSlice x start stop) :=
  errorsIn_ite (errorsIn_ok _) (errorsIn_error (by decide))

theorem errorsIn_baExtract (x : Bits) (start len : Nat) : ErrorsIn [.invalidParameter] (baExtract x start len) :=
  errorsIn_ite (errorsIn_ok _) (errorsIn_error (by decide))

theorem errorsIn_baPartial (v : Word) (len : Nat) (high : Bool) : ErrorsIn [.invalidParameter] (baPartial v len high) :=
  errorsIn_ite (errorsIn_ok _) (errorsIn_error (by decide))

theorem errorsIn_capacity (n : Nat) (x : Bits) : ErrorsIn [.bufferOverflow] (capacity n (.ok x)) :=
  errorsIn_ite (errorsIn_ok _) (errorsIn_error (by decide))

theorem errorsIn_hexDecode (t : Bits) : ErrorsIn [.invalidParameter, .invalidEncoding] (hexDecode t) := by
  rw [hexDecode_eq_ite]
  exact errorsIn_ite (errorsIn_error (by decide)) (errorsIn_ite (errorsIn_ok _) (errorsIn_error (by decide)))

theorem errorsIn_b64Decode (url : Bool) (t : Bits) :
    ErrorsIn [.invalidParameter, .invalidEncoding] (b64Decode url t) := by
  rw [b64Decode_eq_ite]
  exact errorsIn_ite (errorsIn_error (by decide)) (errorsIn_ite (errorsIn_ok _) (errorsIn_error (by decide)))

theorem errorsIn_hexEncode (x : Bits) : ErrorsIn [.invalidParameter, .bufferOverflow] (hexEncode x) :=
  errorsIn_ite (errorsIn_error (by decide)) ((errorsIn_capacity _ _).mono (by decide))

theorem errorsIn_b64Encode (url nopad : Bool) (x : Bits) :
    ErrorsIn [.invalidParameter, .bufferOverflow] (b64Encode url nopad x) :=
  errorsIn_ite (errorsIn_error (by decide)) ((errorsIn_capacity _ _).mono (by decide))

theorem errorsIn_oneBlock (f : Block → Block) (x : Bits) :
    ErrorsIn [.invalidState, .invalidBlockSize] (oneBlock f x) :=
  errorsIn_ite (errorsIn_error (by decide)) (errorsIn_ok _)

theorem errorsIn_rc2OneBlock (rk : Option Rc2Table) (f : Rc2Table → Bits → Bits) (x : Bits) :
    ErrorsIn [.invalidState, .invalidBlockSize] (rc2OneBlock rk f x) := by
  cases rk with
  | none => exact errorsIn_error (by decide)
  | some k => exact errorsIn_ite (errorsIn_error (by decide)) (errorsIn_ok _)

/-! The envelope (R363 to R373) -/

theorem errorsIn_envValidate (r : EnvRecord) (pw : Bits) (rawkey : Bool) :
    ErrorsIn [.invalidParameter, .unsupportedCipher, .unsupportedMode, .invalidKeySize] (envValidate r pw rawkey) := by
  refine errorsIn_ite (errorsIn_error (by decide)) (errorsIn_ite (errorsIn_error (by decide)) ?_)
  split
  · exact errorsIn_error (by decide)
  · intro e h
    split_ifs at h <;> cases h <;> decide

theorem errorsIn_envDecrypt (r : EnvRecord) (pw : Bits) (rawkey : Bool) :
    ErrorsIn [.invalidParameter, .unsupportedCipher, .unsupportedMode, .invalidKeySize, .invalidIV, .notSupported,
      .corruptPadding, .corruptTag] (envDecrypt r pw rawkey) := by
  unfold envDecrypt
  split
  next e he => exact errorsIn_error (((errorsIn_envValidate r pw rawkey).mono (by decide)) e he)
  next mode _ =>
    cases mode with
    | ccm => exact (errorsIn_ccmDecrypt _ _ _ _ _).mono (by decide)
    | gcm => exact (errorsIn_gcmDecrypt _ _ _ _ _).mono (by decide)
    | ocb2 => exact (errorsIn_ocbDecrypt _ _ _ _ _).mono (by decide)
    | cbc => exact (errorsIn_cbcDecrypt _ _ _ _).mono (by decide)

theorem errorsIn_envEncrypt (r : EnvRecord) (pw : Bits) (rawkey : Bool) (pt : Bits) :
    ErrorsIn [.invalidParameter, .unsupportedCipher, .unsupportedMode, .invalidKeySize, .invalidIV, .notSupported,
      .bufferOverflow] (envEncrypt r pw rawkey pt) := by
  unfold envEncrypt
  split
  next e he => exact errorsIn_error (((errorsIn_envValidate r pw rawkey).mono (by decide)) e he)
  next mode _ =>
    cases mode with
    | ccm => exact (errorsIn_ccmEncrypt _ _ _ _ _).mono (by decide)
    | gcm => exact (errorsIn_gcmEncrypt _ _ _ _ _).mono (by decide)
    | ocb2 => exact (errorsIn_ocbEncrypt _ _ _ _ _).mono (by decide)
    | cbc => exact (errorsIn_cbcEncrypt _ _ _ _).mono (by decide)

theorem errorsIn_envInteger (v : EnvValue) : ErrorsIn [.invalidEnvelope] (envInteger v) := by
  cases v with
  | integer n => exact errorsIn_ite (errorsIn_ok _) (errorsIn_error (by decide))
  | _ => exact errorsIn_error (by decide)

theorem errorsIn_envChars (v : EnvValue) : ErrorsIn [.invalidEnvelope] (envChars v) := by
  cases v with
  | string t => exact errorsIn_ok _
  | _ => exact errorsIn_error (by decide)

theorem errorsIn_envBinary (v : EnvValue) :
    ErrorsIn [.invalidEnvelope, .invalidEncoding, .bufferOverflow] (envBinary v) := by
  cases v with
  | string t =>
    rw [envBinary]
    split
    · exact errorsIn_error (by decide)
    · exact (errorsIn_capacity _ _).mono (by decide)
  | _ => exact errorsIn_error (by decide)

theorem errorsIn_putValue (r : EnvRecord) (v : EnvValue) (n : EnvName) :
    ErrorsIn [.invalidEnvelope, .invalidEncoding, .bufferOverflow] (r.putValue v n) := by
  cases n with
  | v | iter | ks | ts => exact ((errorsIn_envInteger v).mono (by decide)).map
  | mode | cipher => exact ((errorsIn_envChars v).mono (by decide)).map
  | adata | iv | salt | ct => exact (errorsIn_envBinary v).map

theorem errorsIn_takePairs (ps : List (List Byte × EnvValue)) (seen : List EnvName) (r : EnvRecord) :
    ErrorsIn [.invalidEnvelope, .invalidEncoding, .bufferOverflow] (takePairs seen r ps) := by
  induction ps generalizing seen r with
  | nil => exact errorsIn_ok r
  | cons p ps ih =>
    unfold takePairs
    split
    next => exact errorsIn_error (by decide)
    next n _ =>
      refine errorsIn_ite (errorsIn_error (by decide)) ?_
      split
      next e he => exact errorsIn_error (errorsIn_putValue r p.2 n e he)
      next r' _ => exact ih (n :: seen) r'

theorem errorsIn_envParse (t : Bits) :
    ErrorsIn [.invalidParameter, .invalidEnvelope, .invalidEncoding, .bufferOverflow] (envParse t) := by
  refine errorsIn_ite (errorsIn_error (by decide)) (errorsIn_ite (errorsIn_error (by decide)) ?_)
  split
  · exact errorsIn_error (by decide)
  · exact (errorsIn_takePairs _ _ _).mono (by decide)

theorem errorsIn_envSerialize (r : EnvRecord) :
    ErrorsIn [.unsupportedCipher, .unsupportedMode, .invalidParameter, .bufferOverflow] (envSerialize r) := by
  refine errorsIn_ite (errorsIn_error (by decide)) ?_
  split
  · exact errorsIn_error (by decide)
  · exact errorsIn_ite (errorsIn_error (by decide)) (errorsIn_ite (errorsIn_ok _) (errorsIn_error (by decide)))

/-! The containers and the generator (R411, R413, R434, R438, R323) -/

theorem errorsIn_legacyDecrypt (pw blob : Bits) : ErrorsIn [.badPassword] (legacyDecrypt pw blob) :=
  fun _ h => List.mem_singleton.mpr (legacyDecrypt_eq_error h)

theorem errorsIn_enc0Decrypt (pw blob : Bits) : ErrorsIn [.badPassword] (enc0Decrypt pw blob) :=
  fun _ h => List.mem_singleton.mpr (enc0Decrypt_eq_error h)

theorem errorsIn_dispatchDecrypt (tag pw blob : Bits) :
    ErrorsIn [.unsupportedCipher, .invalidParameter, .badPassword] (dispatchDecrypt tag pw blob) := by
  rw [dispatchDecrypt_eq_ite]
  exact errorsIn_ite (errorsIn_error (by decide)) (errorsIn_ite (errorsIn_error (by decide))
    (errorsIn_ite ((errorsIn_enc0Decrypt _ _).mono (by decide)) ((errorsIn_legacyDecrypt _ _).mono (by decide))))

theorem errorsIn_rngThreshold (level : Nat) (d : BitVec 4) : ErrorsIn [.invalidParameter] (rngThreshold level d) := by
  unfold rngThreshold
  split
  · exact errorsIn_error (by decide)
  · exact errorsIn_ok _

theorem addEntropy_eq_raised {p : Prng} {now : BitVec 64} {kind n est : Nat} {body : Bits} {tag : TagIx} {e : Err}
    (h : addEntropy p now kind body n est tag = .raised e) : e = .invalidParameter := by
  unfold addEntropy at h
  split at h
  next =>
    injection h with he
    exact he.symm
  next =>
    dsimp only at h
    split at h
    next => cases h
    next =>
      split at h
      next e' he' =>
        injection h with he
        unfold shaUpdate at he'
        split at he'
        next => exact he.symm.trans (Except.error.inj he').symm
        next => cases he'
      next => cases h

/-! Outcomes whose error is one of a list -/

/-- A command that ends in an error ends in one of the list. -/
def FailsIn (l : List Err) (o : Out) : Prop :=
  ∀ t e, o = .next t → t.status.err = true → t.err.code = some e → e ∈ l

section
variable {l : List Err} {op : Byte} {a : BufIx} {s : State}

theorem failsIn_succeed : FailsIn l (.next (s.succeed op)) := by
  rintro _ e ⟨⟩ h
  cases h

theorem failsIn_fail {e : Err} (h : e ∈ l) : FailsIn l (.next (s.fail op e)) := by
  rintro _ _ ⟨⟩ - ⟨⟩
  exact h

theorem failsIn_ite {c : Prop} [Decidable c] {o o' : Out} (h : FailsIn l o) (h' : FailsIn l o') :
    FailsIn l (if c then o else o') := by
  split
  · exact h
  · exact h'

theorem failsIn_resultToBuf {r : Except Err Bits} (h : ErrorsIn l r) : FailsIn l (resultToBuf op a r s) := by
  cases r with
  | ok x => exact failsIn_succeed
  | error e => exact failsIn_fail (h e rfl)

theorem failsIn_resultToScal {j : ScalIx} {r : Except Err Word} (h : ErrorsIn l r) :
    FailsIn l (resultToScal op j r s) := by
  cases r with
  | ok v => exact failsIn_succeed
  | error e => exact failsIn_fail (h e rfl)

theorem failsIn_fault (f : Fault) : FailsIn l (.fault f) := by
  rintro _ _ ⟨⟩

theorem failsIn_finishEntropy {p : Prng} {now : BitVec 64} {kind n est : Nat} {body : Bits} {tag : TagIx}
    (h : .invalidParameter ∈ l) : FailsIn l (finishEntropy op (addEntropy p now kind body n est tag) s) := by
  cases hr : addEntropy p now kind body n est tag with
  | done q => exact failsIn_succeed
  | raised e =>
    obtain rfl := addEntropy_eq_raised hr
    exact failsIn_fail h
  | stopped f => exact failsIn_fault f

end

section
variable (s : State)

theorem failsIn_hashUpdate (a : HashIx) (b : BufIx) :
    FailsIn [.invalidState, .invalidParameter] (exec (.hashUpdate a b) s) := by
  cases hc : s.hashAt a with
  | none =>
    rw [exec_hashUpdate_of_empty hc]
    exact failsIn_fail (by decide)
  | some c =>
    rw [exec_hashUpdate_of_full hc]
    exact failsIn_ite failsIn_succeed (failsIn_fail (by decide))

theorem failsIn_hashFinal (a : BufIx) (e : HashIx) : FailsIn [.invalidState] (exec (.hashFinal a e) s) := by
  cases hc : s.hashAt e with
  | none =>
    rw [exec_hashFinal_of_empty hc]
    exact failsIn_fail (by decide)
  | some c =>
    rw [exec_hashFinal_of_full hc]
    exact failsIn_succeed

theorem failsIn_rngWords (a : BufIx) (c : ScalIx) (level : Nat) :
    FailsIn [.invalidParameter, .bufferOverflow, .generatorNotSeeded] (exec (.rngWords a c level) s) := by
  rw [exec_rngWords]
  unfold execRngWords
  split
  next e he => exact failsIn_fail ((errorsIn_rngThreshold _ _).mono (by decide) e he)
  next =>
    refine failsIn_ite (failsIn_fail (by decide)) (failsIn_ite (failsIn_fail (by decide)) ?_)
    dsimp only
    split
    · exact failsIn_fault _
    · exact failsIn_succeed

theorem failsIn_envParse (b : BufIx) :
    FailsIn [.invalidParameter, .invalidEnvelope, .invalidEncoding, .bufferOverflow] (exec (.envParse b) s) := by
  show FailsIn _ (execEnvParse b s)
  unfold execEnvParse
  split
  next e he => exact failsIn_fail (errorsIn_envParse _ e he)
  next => exact failsIn_succeed

end

/-- Settles O21, command by command: each test of a command has its error in the list, and buffers below `2^32` bits have
a length that `BA.LEN` can answer. -/
theorem errorsListed : Obligations.ErrorsListed := by
  intro i s t e hlen hexec herr hcode
  suffices h : FailsIn (errorsOf i) (exec i s) from h t e hexec herr hcode
  cases i
  all_goals dsimp only [errorsOf]
  case nop | zeroize | baClamp | baEqual | baGetPartial | hashReset | hashDigest | hmac => exact failsIn_succeed
  case baLen a b =>
    rw [exec_baLen, baLen, if_pos (hlen b)]
    exact failsIn_succeed
  case baSlice a b c d => exact failsIn_resultToBuf (errorsIn_baSlice _ _ _)
  case baExtract a b c d => exact failsIn_resultToScal (errorsIn_baExtract _ _ _)
  case baConcat a b c => exact failsIn_resultToBuf (errorsIn_capacity _ _)
  case baPartial a b c high => exact failsIn_resultToBuf (errorsIn_baPartial _ _ _)
  case hexDec a b => exact failsIn_resultToBuf (errorsIn_hexDecode _)
  case hexEnc a b => exact failsIn_resultToBuf (errorsIn_hexEncode _)
  case b64Dec a b url => exact failsIn_resultToBuf (errorsIn_b64Decode _ _)
  case b64Enc a b url nopad => exact failsIn_resultToBuf (errorsIn_b64Encode _ _ _)
  case aesKey a b =>
    rw [exec_aesKey]
    exact failsIn_ite failsIn_succeed (failsIn_fail (by decide))
  case aesEnc a b e | aesDec a b e =>
    exact failsIn_resultToBuf (errorsIn_withKey (by decide) fun _ => errorsIn_oneBlock _ _)
  case hashUpdate a b => exact failsIn_hashUpdate s a b
  case hashFinal a e => exact failsIn_hashFinal s a e
  case pbkdf2 a b c d e alg =>
    rw [exec_pbkdf2]
    exact failsIn_ite (failsIn_fail (by decide)) (failsIn_ite failsIn_succeed (failsIn_fail (by decide)))
  case pbkdf2Init b c d e alg =>
    rw [exec_pbkdf2Init]
    exact failsIn_ite (failsIn_fail (by decide)) (failsIn_ite failsIn_succeed (failsIn_fail (by decide)))
  case pbkdf2Step a b =>
    rw [exec_pbkdf2Step]
    exact failsIn_ite (failsIn_fail (by decide)) failsIn_succeed
  case pbkdf2Read a =>
    rw [exec_pbkdf2Read]
    exact failsIn_ite failsIn_succeed (failsIn_fail (by decide))
  case cbcEnc a b c d e =>
    exact failsIn_resultToBuf (errorsIn_withKey (by decide) fun _ => (errorsIn_cbcEncrypt _ _ _ _).mono (by decide))
  case cbcDec a b c d e =>
    exact failsIn_resultToBuf (errorsIn_withKey (by decide) fun _ => (errorsIn_cbcDecrypt _ _ _ _).mono (by decide))
  case ccmEnc a b c d e tl =>
    exact failsIn_resultToBuf (errorsIn_withKey (by decide) fun _ => (errorsIn_ccmEncrypt _ _ _ _ _).mono (by decide))
  case ccmDec a b c d e tl =>
    exact failsIn_resultToBuf (errorsIn_withKey (by decide) fun _ => (errorsIn_ccmDecrypt _ _ _ _ _).mono (by decide))
  case ocb2Enc a b c d e tl =>
    exact failsIn_resultToBuf (errorsIn_withKey (by decide) fun _ => (errorsIn_ocbEncrypt _ _ _ _ _).mono (by decide))
  case ocb2Dec a b c d e tl =>
    exact failsIn_resultToBuf (errorsIn_withKey (by decide) fun _ => (errorsIn_ocbDecrypt _ _ _ _ _).mono (by decide))
  case gcmEnc a b c d e tl =>
    exact failsIn_resultToBuf (errorsIn_withKey (by decide) fun _ => (errorsIn_gcmEncrypt _ _ _ _ _).mono (by decide))
  case gcmDec a b c d e tl =>
    exact failsIn_resultToBuf (errorsIn_withKey (by decide) fun _ => (errorsIn_gcmDecrypt _ _ _ _ _).mono (by decide))
  case rngAddentN b c tag d => exact failsIn_finishEntropy (by decide)
  case rngAddentW b c tag d =>
    rw [exec_rngAddentW]
    exact failsIn_ite (failsIn_finishEntropy (by decide)) (failsIn_fail (by decide))
  case rngAddentS b c tag d =>
    rw [exec_rngAddentS]
    exact failsIn_ite (failsIn_finishEntropy (by decide)) (failsIn_fail (by decide))
  case rngIsReady a level => exact failsIn_resultToScal (errorsIn_rngThreshold _ _).map
  case rngWords a c level => exact failsIn_rngWords s a c level
  case envDec a b rawkey => exact failsIn_resultToBuf (errorsIn_envDecrypt _ _ _)
  case envEnc b c rawkey => exact failsIn_resultToBuf (errorsIn_envEncrypt _ _ _ _)
  case envParse b => exact failsIn_envParse s b
  case envSer a => exact failsIn_resultToBuf (errorsIn_envSerialize _)
  case md5 a b => exact failsIn_resultToBuf (errorsIn_ite (errorsIn_error (by decide)) (errorsIn_ok _))
  case crc32 a b => exact failsIn_resultToScal (errorsIn_ite (errorsIn_error (by decide)) (errorsIn_ok _))
  case rc2Key b c =>
    rw [exec_rc2Key]
    exact failsIn_ite (failsIn_fail (by decide)) (failsIn_ite (failsIn_fail (by decide)) failsIn_succeed)
  case rc2Enc a b | rc2Dec a b => exact failsIn_resultToBuf (errorsIn_rc2OneBlock _ _ _)
  case legacyDec a b c =>
    exact failsIn_resultToBuf (errorsIn_bytesOperands (by decide) ((errorsIn_legacyDecrypt _ _).mono (by decide)))
  case legacyEnc a b c =>
    exact failsIn_resultToBuf (errorsIn_bytesOperands (by decide) ((errorsIn_capacity _ _).mono (by decide)))
  case enc0Dec a b c =>
    exact failsIn_resultToBuf (errorsIn_bytesOperands (by decide) ((errorsIn_enc0Decrypt _ _).mono (by decide)))
  case dispatchDec a b c d e => exact failsIn_resultToBuf (errorsIn_dispatchDecrypt _ _ _)

end Sys2Proof.Machine
end

section
/-! The envelope's checks and modes (47_envelope.md R362 to R368): the nine checks in order, the mode that is run, and
decryption as the inverse of encryption. -/

namespace Sys2Proof.Machine

/-! Decryption undoes encryption (R368) -/

theorem envModeDec_envModeEnc {mode : EnvMode} {k : AesCtx} {r : EnvRecord} {pt ct : Bits}
    (h : envModeEnc mode k r pt = .ok ct) : envModeDec mode k { r with ct := ct } = .ok pt := by
  cases mode with
  | ccm => exact ccmRoundTrip _ _ _ _ _ _ h
  | gcm => exact gcmRoundTrip _ _ _ _ _ _ h
  | ocb2 => exact ocb2RoundTrip _ _ _ _ _ _ h
  | cbc => exact cbcRoundTrip _ _ _ _ _ h

/-- Settles O56: neither the checks nor the key look at the ciphertext, and each mode decrypts what it encrypts. -/
theorem envelopeRoundTrip : Obligations.EnvelopeRoundTrip := by
  intro r pw pt ct raw henc
  unfold envEncrypt at henc
  split at henc
  next => cases henc
  next mode hmode =>
    have hchecks : envValidate { r with ct := ct } pw raw = .ok mode := hmode
    rw [envDecrypt, hchecks]
    exact envModeDec_envModeEnc henc

/-! The nine checks (R363) -/

/-- The error of the first check that fails, or else the answer `x`. -/
def checked {α : Type} (l : List (Bool × Err)) (x : Except Err α) : Except Err α :=
  match firstFailing l with
  | some e => .error e
  | none => x

section
variable {α : Type} {l : List (Bool × Err)} {e : Err} {x y : Except Err α}

theorem checked_nil : checked [] x = x := rfl

theorem checked_cons_true : checked ((true, e) :: l) x = .error e := rfl

theorem checked_cons_false : checked ((false, e) :: l) x = checked l x := rfl

theorem ite_eq_checked_cons {c : Prop} [Decidable c] {b : Bool} (hb : b = true ↔ c) (h : y = checked l x) :
    (if c then .error e else y) = checked ((b, e) :: l) x := by
  cases b with
  | true => rw [if_pos (hb.mp rfl), checked_cons_true]
  | false => rw [if_neg (mt hb.mpr nofun), checked_cons_false, h]

theorem checked_of_failing (h : firstFailing l = some e) (x : Except Err α) : checked l x = .error e := by
  rw [checked, h]

theorem checked_of_passing (h : firstFailing l = none) (x : Except Err α) : checked l x = x := by
  rw [checked, h]

end

theorem isAeadTag_eq_contains (n : Nat) : isAeadTag n = [64, 96, 128].contains n := by
  simp only [isAeadTag, List.contains_cons, List.contains_nil, Bool.or_false, Bool.or_assoc]

theorem isAesKeyLength_eq_contains (n : Nat) : isAesKeyLength n = [128, 192, 256].contains n := by
  simp only [isAesKeyLength, List.contains_cons, List.contains_nil, Bool.or_false, Bool.or_assoc]

/-- The codes with a mode are 0 to 3 (R362). -/
theorem envMode_eq_none_iff (v : Word) : envMode v = none ↔ 3 < v.toNat := by
  unfold envMode
  split_ifs with hccm hgcm hocb hcbc
  · simp [hccm]
  · simp [hgcm]
  · simp [hocb]
  · simp [hcbc]
  · simp only [true_iff]
    bv_omega

/-- The word count of an IV is from 2 to 4 (R363). -/
theorem envIv_invalid_iff (n : Nat) : ¬ (33 ≤ n ∧ n ≤ 128) ↔ (ceilDiv n 32 < 2 ∨ 4 < ceilDiv n 32) := by
  rw [ceilDiv]
  omega

/-- `validate` is the nine checks in order, then the mode; an unknown mode fails at the third. -/
theorem envValidate_eq_checked {r : EnvRecord} {x : Except Err EnvMode}
    (hx : ∀ mode, envMode r.regs.mode = some mode → x = .ok mode) (pw : Bits) (rawkey : Bool) :
    envValidate r pw rawkey = checked (envChecks r pw rawkey) x := by
  unfold envValidate envChecks
  refine ite_eq_checked_cons bne_iff_ne (ite_eq_checked_cons bne_iff_ne ?_)
  cases hmode : envMode r.regs.mode with
  | none => rw [decide_eq_true ((envMode_eq_none_iff _).mp hmode), checked_cons_true]
  | some mode =>
    have hknown : ¬ 3 < r.regs.mode.toNat := by
      rw [← envMode_eq_none_iff, hmode]
      exact nofun
    rw [decide_eq_false hknown, checked_cons_false, hx mode hmode]
    refine ite_eq_checked_cons Iff.rfl (ite_eq_checked_cons Iff.rfl (ite_eq_checked_cons ?_ (ite_eq_checked_cons ?_
      (ite_eq_checked_cons ?_ (ite_eq_checked_cons ?_ checked_nil.symm)))))
    · rw [isAeadTag_eq_contains]
    · rw [isAesKeyLength_eq_contains]
    · rw [Bool.not_eq_true', decide_eq_false_iff_not, envIv_invalid_iff]
    · rw [isAesKeyLength_eq_contains]

theorem eq_false_of_firstFailing_eq_none {l : List (Bool × Err)} (h : firstFailing l = none) :
    ∀ c ∈ l, c.1 = false := by
  rw [firstFailing, Option.map_eq_none_iff, List.find?_eq_none] at h
  exact fun c hc => Bool.eq_false_iff.mpr (h c hc)

/-- A record that passes the checks has a mode. -/
theorem exists_envMode_of_passing {r : EnvRecord} {pw : Bits} {rawkey : Bool}
    (h : firstFailing (envChecks r pw rawkey) = none) : ∃ mode, envMode r.regs.mode = some mode := by
  have hknown : decide (3 < r.regs.mode.toNat) = false :=
    eq_false_of_firstFailing_eq_none h (decide (3 < r.regs.mode.toNat), .unsupportedMode) (by simp [envChecks])
  rw [decide_eq_false_iff_not, ← envMode_eq_none_iff] at hknown
  exact Option.ne_none_iff_exists'.mp hknown

/-! ENV.DEC and ENV.ENC as equations of the next state (R364, R365, R367) -/

/-- Of four answers, one for each mode code, the one for the mode. -/
theorem ite_mode_eq {α : Type} {v : Word} {mode : EnvMode} (h : envMode v = some mode) (ccm gcm ocb2 cbc : α) :
    (if v = 0 then ccm else if v = 1 then gcm else if v = 2 then ocb2 else cbc) =
      match mode with
      | .ccm => ccm
      | .gcm => gcm
      | .ocb2 => ocb2
      | .cbc => cbc := by
  unfold envMode at h
  split_ifs at h ⊢ <;> cases h <;> rfl

section
variable (s : State) (a b c : BufIx) (rawkey : Bool)

theorem exec_envDec :
    exec (.envDec a b rawkey) s = resultToBuf 0x70 a (envDecrypt s.envRecord (s.bufAt b) rawkey) s := rfl

theorem exec_envEnc :
    exec (.envEnc b c rawkey) s = resultToBuf 0x71 ctBuf (envEncrypt s.envRecord (s.bufAt b) rawkey (s.bufAt c)) s := rfl

end

theorem envValidate_of_failing {r : EnvRecord} {pw : Bits} {rawkey : Bool} {e : Err}
    (h : firstFailing (envChecks r pw rawkey) = some e) : envValidate r pw rawkey = .error e := by
  have hx : ∀ mode, envMode r.regs.mode = some mode → (envMode r.regs.mode).elim (Except.error e) Except.ok = .ok mode := by
    intro mode hmode
    rw [hmode, Option.elim_some]
  rw [envValidate_eq_checked hx, checked_of_failing h]

theorem envValidate_of_passing {r : EnvRecord} {pw : Bits} {rawkey : Bool} {mode : EnvMode}
    (h : firstFailing (envChecks r pw rawkey) = none) (hmode : envMode r.regs.mode = some mode) :
    envValidate r pw rawkey = .ok mode := by
  have hx : ∀ m, envMode r.regs.mode = some m → (.ok mode : Except Err EnvMode) = .ok m := fun m hm =>
    congrArg Except.ok (Option.some.inj (hmode.symm.trans hm))
  rw [envValidate_eq_checked hx, checked_of_passing h]

theorem envDecrypt_of_failing {r : EnvRecord} {pw : Bits} {rawkey : Bool} {e : Err}
    (h : firstFailing (envChecks r pw rawkey) = some e) : envDecrypt r pw rawkey = .error e := by
  rw [envDecrypt, envValidate_of_failing h]

theorem envEncrypt_of_failing {r : EnvRecord} {pw : Bits} {rawkey : Bool} {e : Err}
    (h : firstFailing (envChecks r pw rawkey) = some e) (pt : Bits) : envEncrypt r pw rawkey pt = .error e := by
  rw [envEncrypt, envValidate_of_failing h]

theorem envDecrypt_of_passing {r : EnvRecord} {pw : Bits} {rawkey : Bool}
    (h : firstFailing (envChecks r pw rawkey) = none) :
    envDecrypt r pw rawkey =
      let k := aesContext (envKey r pw rawkey)
      if r.regs.mode = 0 then ccmDecrypt k r.ct r.iv r.adata r.regs.ts.toNat
      else if r.regs.mode = 1 then gcmDecrypt k r.ct r.iv r.adata r.regs.ts.toNat
      else if r.regs.mode = 2 then ocbDecrypt k r.ct r.iv r.adata r.regs.ts.toNat
      else cbcDecrypt k r.ct r.iv r.adata := by
  obtain ⟨mode, hmode⟩ := exists_envMode_of_passing h
  rw [envDecrypt, envValidate_of_passing h hmode]
  refine Eq.trans ?_ (ite_mode_eq hmode _ _ _ _).symm
  cases mode <;> rfl

theorem envEncrypt_of_passing {r : EnvRecord} {pw : Bits} {rawkey : Bool}
    (h : firstFailing (envChecks r pw rawkey) = none) (pt : Bits) :
    envEncrypt r pw rawkey pt =
      let k := aesContext (envKey r pw rawkey)
      if r.regs.mode = 0 then ccmEncrypt k pt r.iv r.adata r.regs.ts.toNat
      else if r.regs.mode = 1 then gcmEncrypt k pt r.iv r.adata r.regs.ts.toNat
      else if r.regs.mode = 2 then ocbEncrypt k pt r.iv r.adata r.regs.ts.toNat
      else cbcEncrypt k pt r.iv r.adata := by
  obtain ⟨mode, hmode⟩ := exists_envMode_of_passing h
  rw [envEncrypt, envValidate_of_passing h hmode]
  refine Eq.trans ?_ (ite_mode_eq hmode _ _ _ _).symm
  cases mode <;> rfl

theorem resultToBuf_eq_match (op : Byte) (a : BufIx) (r : Except Err Bits) (s : State) :
    resultToBuf op a r s =
      match r with
      | .ok x => .next (s.wrote op a x)
      | .error e => .next (s.failedTo op a e) := by
  cases r <;> rfl

end Sys2Proof.Machine
end

section
/-! The grammar of the envelope text (47_envelope.md R370): the parser's functions accept exactly what the grammar
generates, because no name and no value holds a separator. -/

namespace Sys2Proof.Machine

/-! Characters (R370) -/

theorem isDigit_iff_mem : ∀ c : Byte, isDigit c = true ↔ c ∈ digitChars := by decide

theorem isAlnum_iff_mem : ∀ c : Byte, isAlnum c = true ↔ c ∈ alnumChars := by decide

theorem isSchar_iff_mem (c : Byte) : isSchar c = true ↔ c ∈ scharChars := by
  rw [isSchar, scharChars, Bool.or_eq_true, List.mem_append, isAlnum_iff_mem, List.contains_iff_mem]

theorem all_isDigit_iff (t : List Byte) : t.all isDigit = true ↔ ∀ c ∈ t, c ∈ digitChars := by
  simp only [List.all_eq_true, isDigit_iff_mem]

theorem all_isAlnum_iff (t : List Byte) : t.all isAlnum = true ↔ ∀ c ∈ t, c ∈ alnumChars := by
  simp only [List.all_eq_true, isAlnum_iff_mem]

theorem all_isSchar_iff (t : List Byte) : t.all isSchar = true ↔ ∀ c ∈ t, c ∈ scharChars := by
  simp only [List.all_eq_true, isSchar_iff_mem]

/-! Names and values (R370) -/

/-- What `quoted` reads is the text between two quotes. -/
theorem quoted_eq_some_iff {q : Byte} {ok : Byte → Bool} {t n : List Byte} :
    quoted q ok t = some n ↔ t = [q] ++ n ++ [q] ∧ n.all ok = true := by
  constructor
  · intro h
    cases t with
    | nil => cases h
    | cons c rest =>
      rw [quoted] at h
      split_ifs at h with hq
      obtain ⟨rfl, -, hlast, hall⟩ := hq
      obtain rfl := Option.some.inj h
      refine ⟨?_, hall⟩
      rw [List.append_assoc, List.dropLast_append_getLast? _ hlast, List.singleton_append]
  · rintro ⟨rfl, hall⟩
    have hrest : quoted q ok (q :: (n ++ [q])) = some n := by
      simp [quoted, hall]
    exact hrest

theorem bareName_eq_some_iff {t n : List Byte} :
    bareName t = some n ↔ t = n ∧ n ≠ [] ∧ ∀ c ∈ n, c ∈ alnumChars := by
  rw [bareName, ← all_isAlnum_iff, ← List.length_pos_iff]
  constructor
  · intro h
    split_ifs at h with hname
    obtain rfl := Option.some.inj h
    exact ⟨rfl, hname⟩
  · rintro ⟨rfl, hname⟩
    exact if_pos hname

/-- A text that starts with a quote is no bare name. -/
theorem bareName_eq_none_of_quote {q : Byte} (hq : q ∉ alnumChars) (t : List Byte) : bareName (q :: t) = none := by
  rw [Option.eq_none_iff_forall_ne_some]
  intro n h
  obtain ⟨rfl, -, hall⟩ := bareName_eq_some_iff.mp h
  exact hq (hall q List.mem_cons_self)

theorem quoted_eq_none_of_ne {q q' : Byte} (hq : q' ≠ q) (ok : Byte → Bool) (t : List Byte) :
    quoted q ok (q' :: t) = none := by
  rw [quoted, if_neg fun h => hq h.1]

theorem parseName_of_bareName {t n : List Byte} (h : bareName t = some n) : parseName t = some n := by
  rw [parseName, h]

theorem parseName_eq_some_iff {t n : List Byte} : parseName t = some n ↔ IsName t n := by
  constructor
  · intro h
    unfold parseName at h
    split at h
    next n' hbare =>
      obtain rfl := Option.some.inj h
      obtain ⟨rfl, hne, hall⟩ := bareName_eq_some_iff.mp hbare
      exact ⟨hne, hall, .inl rfl⟩
    next =>
      split at h
      next n' hquoted =>
        obtain ⟨rfl, -⟩ := quoted_eq_some_iff.mp hquoted
        obtain ⟨rfl, hne, hall⟩ := bareName_eq_some_iff.mp h
        exact ⟨hne, hall, .inr (.inl rfl)⟩
      next =>
        split at h
        next n' hquoted =>
          obtain ⟨rfl, -⟩ := quoted_eq_some_iff.mp hquoted
          obtain ⟨rfl, hne, hall⟩ := bareName_eq_some_iff.mp h
          exact ⟨hne, hall, .inr (.inr rfl)⟩
        next => cases h
  · rintro ⟨hne, hall, hform⟩
    have hbare : bareName n = some n := bareName_eq_some_iff.mpr ⟨rfl, hne, hall⟩
    have hok : n.all isAlnum = true := (all_isAlnum_iff n).mpr hall
    obtain rfl | rfl | rfl := hform
    · exact parseName_of_bareName hbare
    · have hquote : bareName (ascii ['"'] ++ n ++ ascii ['"']) = none := bareName_eq_none_of_quote (by decide) _
      have hquoted : quoted 0x22 isAlnum (ascii ['"'] ++ n ++ ascii ['"']) = some n :=
        quoted_eq_some_iff.mpr ⟨rfl, hok⟩
      rw [parseName, hquote, hquoted]
      exact hbare
    · have hquote : bareName (ascii ['\''] ++ n ++ ascii ['\'']) = none := bareName_eq_none_of_quote (by decide) _
      have hdouble : quoted 0x22 isAlnum (ascii ['\''] ++ n ++ ascii ['\'']) = none :=
        quoted_eq_none_of_ne (by decide) _ _
      have hquoted : quoted 0x27 isAlnum (ascii ['\''] ++ n ++ ascii ['\'']) = some n :=
        quoted_eq_some_iff.mpr ⟨rfl, hok⟩
      rw [parseName, hquote, hdouble, hquoted]
      exact hbare

theorem decimalValue_eq_ofDigits (t : List Byte) :
    decimalValue t = Nat.ofDigits 10 (t.reverse.map fun c => c.toNat - 0x30) := by
  induction t using List.reverseRecOn with
  | nil => rfl
  | append_singleton t c ih =>
    rw [decimalValue, List.foldl_append, List.reverse_append, List.foldl_cons, List.foldl_nil, ← decimalValue, ih]
    simp [Nat.ofDigits_cons, Nat.add_comm]

/-- A text that starts with a double quote is no number and no truth value. -/
theorem parseValue_of_quote (t : List Byte) : parseValue (0x22 :: t) = (quoted 0x22 isSchar (0x22 :: t)).map .string := by
  have hdigits : ¬ (1 ≤ (0x22 :: t).length ∧ (0x22 :: t).all isDigit = true) := by
    rw [List.all_cons]
    exact fun h => absurd h.2 nofun
  have hyes : (0x22 :: t : List Byte) ≠ ascii ['t', 'r', 'u', 'e'] :=
    fun h => absurd (List.head_eq_of_cons_eq h) (by decide)
  have hno : (0x22 :: t : List Byte) ≠ ascii ['f', 'a', 'l', 's', 'e'] :=
    fun h => absurd (List.head_eq_of_cons_eq h) (by decide)
  rw [parseValue, if_neg hdigits, if_neg hyes, if_neg hno]

theorem parseValue_eq_some_iff {t : List Byte} {v : EnvValue} : parseValue t = some v ↔ IsValue t v := by
  constructor
  · intro h
    unfold parseValue at h
    split_ifs at h with hdigits hyes hno
    · obtain rfl := Option.some.inj h
      rw [decimalValue_eq_ofDigits]
      exact .integer t (List.length_pos_iff.mp hdigits.1) ((all_isDigit_iff t).mp hdigits.2)
    · obtain rfl := Option.some.inj h
      exact hyes ▸ .yes
    · obtain rfl := Option.some.inj h
      exact hno ▸ .no
    · obtain ⟨x, hx, rfl⟩ := Option.map_eq_some_iff.mp h
      obtain ⟨rfl, hall⟩ := quoted_eq_some_iff.mp hx
      exact .string x ((all_isSchar_iff x).mp hall)
  · intro h
    cases h with
    | integer _ hne hall =>
      rw [parseValue, if_pos ⟨List.length_pos_iff.mpr hne, (all_isDigit_iff t).mpr hall⟩, decimalValue_eq_ofDigits]
    | string x hall =>
      have hquoted : quoted 0x22 isSchar (0x22 :: (x ++ [0x22])) = some x :=
        quoted_eq_some_iff.mpr ⟨rfl, (all_isSchar_iff x).mpr hall⟩
      have hvalue : parseValue (0x22 :: (x ++ [0x22])) = some (.string x) := by
        rw [parseValue_of_quote, hquoted, Option.map_some]
      exact hvalue
    | yes => decide
    | no => decide

/-- The characters of names and values, quotes included. -/
def tokenChars : List Byte := scharChars ++ [0x22, 0x27]

theorem digitChars_subset_tokenChars : digitChars ⊆ tokenChars := by decide

theorem alnumChars_subset_tokenChars : alnumChars ⊆ tokenChars := by decide

theorem scharChars_subset_tokenChars : scharChars ⊆ tokenChars := List.subset_append_left _ _

/-- A text between quotes is of token characters when it is without them. -/
theorem subset_tokenChars_of_quotes {q : Byte} {n : List Byte} (hq : q ∈ tokenChars) (hn : n ⊆ tokenChars) :
    [q] ++ n ++ [q] ⊆ tokenChars := by
  simp only [List.append_subset, List.cons_subset, List.nil_subset, and_true]
  exact ⟨⟨hq, hn⟩, hq⟩

theorem IsName.subset_tokenChars {t n : List Byte} (h : IsName t n) : t ⊆ tokenChars := by
  obtain ⟨-, hall, hform⟩ := h
  have hn : n ⊆ tokenChars := fun c hc => alnumChars_subset_tokenChars (hall c hc)
  obtain rfl | rfl | rfl := hform
  · exact hn
  · exact subset_tokenChars_of_quotes (by decide) hn
  · exact subset_tokenChars_of_quotes (by decide) hn

theorem IsValue.subset_tokenChars {t : List Byte} {v : EnvValue} (h : IsValue t v) : t ⊆ tokenChars := by
  cases h with
  | integer _ _ hall => exact fun c hc => digitChars_subset_tokenChars (hall c hc)
  | string x hall =>
    exact subset_tokenChars_of_quotes (by decide) fun c hc => scharChars_subset_tokenChars (hall c hc)
  | yes => decide
  | no => decide

/-! Text cut at a separator -/

theorem splitOnByte_ne_nil (sep : Byte) (t : List Byte) : splitOnByte sep t ≠ [] := by
  cases t with
  | nil => nofun
  | cons c t =>
    rw [splitOnByte]
    split
    · nofun
    · split <;> nofun

theorem splitOnByte_of_notMem {sep : Byte} {t : List Byte} (h : sep ∉ t) : splitOnByte sep t = [t] := by
  induction t with
  | nil => rfl
  | cons c t ih =>
    obtain ⟨hc, ht⟩ : sep ≠ c ∧ sep ∉ t := by simpa using h
    rw [splitOnByte, if_neg hc.symm, ih ht]

theorem splitOnByte_append_cons {sep : Byte} {t : List Byte} (h : sep ∉ t) (rest : List Byte) :
    splitOnByte sep (t ++ sep :: rest) = t :: splitOnByte sep rest := by
  induction t with
  | nil => simp [splitOnByte]
  | cons c t ih =>
    obtain ⟨hc, ht⟩ : sep ≠ c ∧ sep ∉ t := by simpa using h
    rw [List.cons_append, splitOnByte, if_neg hc.symm, ih ht]

theorem splitOnByte_intersperse {sep : Byte} {l : List (List Byte)} (hl : l ≠ []) (h : ∀ t ∈ l, sep ∉ t) :
    splitOnByte sep (l.intersperse [sep]).flatten = l := by
  induction l with
  | nil => exact absurd rfl hl
  | cons t l ih =>
    obtain ⟨ht, hrest⟩ := List.forall_mem_cons.mp h
    cases l with
    | nil => simpa using splitOnByte_of_notMem ht
    | cons u l =>
      have hflat : ((t :: u :: l).intersperse [sep]).flatten = t ++ sep :: ((u :: l).intersperse [sep]).flatten := by
        simp
      rw [hflat, splitOnByte_append_cons ht, ih nofun hrest]

theorem flatten_intersperse_splitOnByte (sep : Byte) (t : List Byte) :
    ((splitOnByte sep t).intersperse [sep]).flatten = t := by
  induction t with
  | nil => rfl
  | cons c t ih =>
    rw [splitOnByte]
    obtain ⟨u, l, hl⟩ := List.exists_cons_of_ne_nil (splitOnByte_ne_nil sep t)
    rw [hl] at ih ⊢
    split
    next hc =>
      subst hc
      simp [ih]
    next hc => cases l <;> simpa using ih

/-! Pairs and the whole text (R370) -/

theorem decodeAll_eq_some_iff {α β : Type} {f : α → Option β} {l : List α} {ys : List β} :
    decodeAll f l = some ys ↔ List.Forall₂ (fun x y => f x = some y) l ys := by
  induction l generalizing ys with
  | nil => simp [decodeAll, eq_comm]
  | cons x l ih =>
    rw [decodeAll, List.forall₂_cons_left_iff]
    split
    next y ys' hy hys =>
      simp only [Option.some.injEq, ← ih, hy, hys]
      constructor
      · rintro rfl
        exact ⟨y, ys', rfl, rfl, rfl⟩
      · rintro ⟨_, _, rfl, rfl, rfl⟩
        rfl
    next hnone =>
      simp only [reduceCtorEq, false_iff]
      rintro ⟨y, ys', hy, hys, -⟩
      exact hnone y ys' hy (ih.mpr hys)

theorem parsePair_eq_some_iff {t : List Byte} {p : List Byte × EnvValue} : parsePair t = some p ↔ IsPair t p := by
  constructor
  · intro h
    unfold parsePair at h
    split at h
    next n v hsplit =>
      split at h
      next n' v' hn hv =>
        obtain rfl := Option.some.inj h
        refine ⟨n, v, ?_, parseName_eq_some_iff.mp hn, parseValue_eq_some_iff.mp hv⟩
        rw [← flatten_intersperse_splitOnByte 0x3A t, hsplit]
        simp [ascii]
      next => cases h
    next => cases h
  · rintro ⟨a, b, rfl, ha, hb⟩
    have hcolon : (0x3A : Byte) ∉ tokenChars := by decide
    have hsplit : splitOnByte 0x3A (a ++ ascii [':'] ++ b) = [a, b] := by
      rw [List.append_assoc]
      refine (splitOnByte_append_cons (mt (fun h => ha.subset_tokenChars h) hcolon) b).trans ?_
      rw [splitOnByte_of_notMem (mt (fun h => hb.subset_tokenChars h) hcolon)]
    rw [parsePair, hsplit]
    dsimp only
    rw [parseName_eq_some_iff.mpr ha, parseValue_eq_some_iff.mpr hb]

theorem comma_notMem_of_isPair {t : List Byte} {p : List Byte × EnvValue} (h : IsPair t p) : (0x2C : Byte) ∉ t := by
  obtain ⟨a, b, rfl, ha, hb⟩ := h
  have hcomma : (0x2C : Byte) ∉ tokenChars := by decide
  have hcolon : (0x2C : Byte) ∉ ascii [':'] := by decide
  simp only [List.mem_append, not_or]
  exact ⟨⟨mt (fun h => ha.subset_tokenChars h) hcomma, hcolon⟩, mt (fun h => hb.subset_tokenChars h) hcomma⟩

theorem forall_mem_of_forall₂ {α β : Type} {R : α → β → Prop} {P : α → Prop} (hR : ∀ x y, R x y → P x) {l : List α}
    {m : List β} (h : List.Forall₂ R l m) : ∀ x ∈ l, P x := by
  induction h with
  | nil => exact nofun
  | cons hxy _ ih => exact List.forall_mem_cons.mpr ⟨hR _ _ hxy, ih⟩

theorem forall₂_parsePair_iff {texts : List (List Byte)} {ps : List (List Byte × EnvValue)} :
    List.Forall₂ (fun t p => parsePair t = some p) texts ps ↔ List.Forall₂ IsPair texts ps := by
  simp only [parsePair_eq_some_iff]

/-- The parser accepts the texts of the grammar, and reads their pairs. -/
theorem parsePairs_eq_some_iff {t : List Byte} {ps : List (List Byte × EnvValue)} :
    parsePairs t = some ps ↔ IsEnvelope t ps := by
  constructor
  · intro h
    cases t with
    | nil => cases h
    | cons c rest =>
      rw [parsePairs] at h
      split_ifs at h with hbraces
      obtain ⟨rfl, hlast⟩ := hbraces
      refine ⟨splitOnByte 0x2C rest.dropLast, splitOnByte_ne_nil _ _,
        forall₂_parsePair_iff.mp (decodeAll_eq_some_iff.mp h), ?_⟩
      have hcomma : ascii [','] = [0x2C] := rfl
      rw [hcomma, flatten_intersperse_splitOnByte, List.append_assoc, List.dropLast_append_getLast? _ hlast,
        List.singleton_append]
  · rintro ⟨texts, hne, hpairs, rfl⟩
    have hcommas : ∀ t ∈ texts, (0x2C : Byte) ∉ t :=
      forall_mem_of_forall₂ (P := fun t => (0x2C : Byte) ∉ t) (fun _ _ => comma_notMem_of_isPair) hpairs
    have hsplit : splitOnByte 0x2C (texts.intersperse (ascii [','])).flatten = texts :=
      splitOnByte_intersperse hne hcommas
    rw [List.append_assoc, List.singleton_append, parsePairs, List.dropLast_concat, hsplit,
      if_pos ⟨rfl, List.getLast?_concat⟩]
    exact decodeAll_eq_some_iff.mpr (forall₂_parsePair_iff.mpr hpairs)

end Sys2Proof.Machine
end

section
/-! The pairs of an envelope text as a record (47_envelope.md R371, R373): taking them one by one ends in the error of the
first pair that has one, or in the record that all of them describe. -/

namespace Sys2Proof.Machine

/-! Field names (R371) -/

theorem envNameOf_text : ∀ n : EnvName, envNameOf n.text = some n := by
  intro n
  cases n <;> decide

theorem text_injective {m n : EnvName} (h : m.text = n.text) : m = n :=
  Option.some.inj ((envNameOf_text m).symm.trans ((congrArg envNameOf h).trans (envNameOf_text n)))

theorem text_of_envNameOf {t : List Byte} {n : EnvName} (h : envNameOf t = some n) : t = n.text := by
  have hfound := List.find?_some h
  exact (beq_iff_eq.mp hfound).symm

/-- A text that names no field is in none of the lists of names. -/
theorem notMem_fields_of_envNameOf_eq_none {t : List Byte} (h : envNameOf t = none) :
    t ∉ integerFields ++ nameFields ++ binaryFields := by
  have hfields : integerFields ++ nameFields ++ binaryFields =
      ([.v, .iter, .ks, .ts, .mode, .cipher, .adata, .iv, .salt, .ct] : List EnvName).map EnvName.text := rfl
  rw [hfields, List.mem_map]
  rintro ⟨n, -, rfl⟩
  rw [envNameOf_text] at h
  cases h

/-! One pair: its error, and what it does to the record (R373) -/

/-- The error of a result, if it is one. -/
def errorOf {α : Type} : Except Err α → Option Err
  | .ok _ => none
  | .error e => some e

theorem errorOf_map {α β : Type} (f : α → β) (r : Except Err α) : errorOf (r.map f) = errorOf r := by
  cases r <;> rfl

theorem errorOf_capacity (n : Nat) (x : Bits) :
    errorOf (capacity n (.ok x)) = if fitsBuf n then none else some .bufferOverflow := by
  rw [capacity]
  split <;> rfl

theorem pairError_of_unknown {earlier : List (List Byte)} {p : List Byte × EnvValue} (h : envNameOf p.1 = none) :
    pairError earlier p = some .invalidEnvelope :=
  if_pos (notMem_fields_of_envNameOf_eq_none h)

theorem text_mem_fields (n : EnvName) : n.text ∈ integerFields ++ nameFields ++ binaryFields := by
  cases n <;> decide

theorem pairError_of_repeated {earlier : List (List Byte)} {n : EnvName} (h : n.text ∈ earlier) (v : EnvValue) :
    pairError earlier (n.text, v) = some .invalidEnvelope := by
  rw [pairError, if_neg (not_not.mpr (text_mem_fields n)), if_pos h]

theorem pairError_integer {earlier : List (List Byte)} {name : List Byte} (hname : name ∈ integerFields)
    (h : name ∉ earlier) (v : EnvValue) : pairError earlier (name, v) = errorOf (envInteger v) := by
  have hknown : name ∈ integerFields ++ nameFields ++ binaryFields :=
    List.mem_append_left _ (List.mem_append_left _ hname)
  rw [pairError, if_neg (not_not.mpr hknown), if_neg h]
  cases v with
  | integer k =>
    simp only [hname, true_and, envInteger]
    split <;> rfl
  | string t => exact if_pos hname
  | boolean b => rfl

theorem pairError_name {earlier : List (List Byte)} {name : List Byte} (hname : name ∈ nameFields)
    (hint : name ∉ integerFields) (h : name ∉ earlier) (v : EnvValue) :
    pairError earlier (name, v) = errorOf (envChars v) := by
  have hknown : name ∈ integerFields ++ nameFields ++ binaryFields :=
    List.mem_append_left _ (List.mem_append_right _ hname)
  rw [pairError, if_neg (not_not.mpr hknown), if_neg h]
  cases v with
  | integer k => exact if_neg fun hk => hint hk.1
  | string t => exact (if_neg hint).trans (if_pos hname)
  | boolean b => rfl

theorem pairError_binary {earlier : List (List Byte)} {name : List Byte} (hname : name ∈ binaryFields)
    (hint : name ∉ integerFields) (hnames : name ∉ nameFields) (h : name ∉ earlier) (v : EnvValue) :
    pairError earlier (name, v) = errorOf (envBinary v) := by
  have hknown : name ∈ integerFields ++ nameFields ++ binaryFields := List.mem_append_right _ hname
  rw [pairError, if_neg (not_not.mpr hknown), if_neg h]
  cases v with
  | integer k => exact if_neg fun hk => hint hk.1
  | string t =>
    refine (if_neg hint).trans ((if_neg hnames).trans ?_)
    rw [envBinary]
    cases b64DecodeBytes false t with
    | none => rfl
    | some x => exact (errorOf_capacity _ _).symm
  | boolean b => rfl

/-- A pair of a field that has not occurred has the error that taking its value has. -/
theorem pairError_eq_errorOf_putValue {earlier : List (List Byte)} {n : EnvName} (h : n.text ∉ earlier) (r : EnvRecord)
    (v : EnvValue) : pairError earlier (n.text, v) = errorOf (r.putValue v n) := by
  cases n with
  | v | iter | ks | ts =>
    rw [EnvRecord.putValue, errorOf_map]
    exact pairError_integer (by decide) h v
  | mode | cipher =>
    rw [EnvRecord.putValue, errorOf_map]
    exact pairError_name (by decide) (by decide) h v
  | adata | iv | salt | ct =>
    rw [EnvRecord.putValue, errorOf_map]
    exact pairError_binary (by decide) (by decide) (by decide) h v

/-! The record of a list of pairs (R373) -/

/-- An integer register from its value, if the text has one. -/
def integerOf (default : Word) : Option EnvValue → Word
  | some (.integer n) => BitVec.ofNat 32 n
  | _ => default

/-- A name register from its value, if the text has one. -/
def nameOf (known : List (List Byte)) : Option EnvValue → Word
  | some (.string t) => if t ∈ known then BitVec.ofNat 32 (known.idxOf t) else 0xFFFFFFFF
  | _ => 0

/-- A binary field from its value, if the text has one. -/
def binaryOf : Option EnvValue → Bits
  | some (.string t) => (b64DecodeBytes false t).getD []
  | _ => []

/-- The record whose fields have these values. -/
def recordOfValues (f : EnvName → Option EnvValue) : EnvRecord :=
  { regs :=
      { v := integerOf 1 (f .v), iter := integerOf 1000 (f .iter), ks := integerOf 128 (f .ks)
        ts := integerOf 64 (f .ts), mode := nameOf modeNames (f .mode), cipher := nameOf [aesText] (f .cipher) }
    adata := binaryOf (f .adata), iv := binaryOf (f .iv), salt := binaryOf (f .salt), ct := binaryOf (f .ct) }

/-- The value that the pairs give each field. -/
def valuesOf (ps : List (List Byte × EnvValue)) (n : EnvName) : Option EnvValue := fieldValue ps n.text

theorem integerField_eq (ps : List (List Byte × EnvValue)) (n : EnvName) (default : Word) :
    integerField ps n.text default = integerOf default (valuesOf ps n) := by
  rw [integerField, valuesOf]
  rcases fieldValue ps n.text with _ | _ | _ | _ <;> rfl

theorem nameField_eq (ps : List (List Byte × EnvValue)) (n : EnvName) (known : List (List Byte)) :
    nameField ps n.text known = nameOf known (valuesOf ps n) := by
  rw [nameField, valuesOf]
  rcases fieldValue ps n.text with _ | _ | _ | _ <;> rfl

theorem binaryField_eq (ps : List (List Byte × EnvValue)) (n : EnvName) :
    binaryField ps n.text = binaryOf (valuesOf ps n) := by
  rw [binaryField, valuesOf]
  rcases fieldValue ps n.text with _ | _ | _ | _ <;> rfl

theorem recordOf_eq (ps : List (List Byte × EnvValue)) : recordOf ps = recordOfValues (valuesOf ps) := by
  rw [recordOfValues]
  simp only [← integerField_eq, ← nameField_eq, ← binaryField_eq]
  rfl

/-- A pair of a field that has not occurred gives it its value and leaves the other fields. -/
theorem valuesOf_concat {ps : List (List Byte × EnvValue)} {n : EnvName} (h : n.text ∉ ps.map fun p => p.1)
    (v : EnvValue) : valuesOf (ps ++ [(n.text, v)]) = Function.update (valuesOf ps) n (some v) := by
  funext m
  rw [valuesOf, fieldValue, List.find?_append]
  by_cases hm : m = n
  · subst hm
    have hnone : ps.find? (fun p => p.1 == m.text) = none := by
      rw [List.find?_eq_none]
      intro p hp hname
      exact h (List.mem_map.mpr ⟨p, hp, beq_iff_eq.mp hname⟩)
    rw [hnone, Function.update_self]
    simp
  · have hother : ((n.text, v).1 == m.text) = false := beq_eq_false_iff_ne.mpr fun ht => hm (text_injective ht).symm
    rw [Function.update_of_ne hm, List.find?_singleton, hother]
    simp [valuesOf, fieldValue]

theorem integerOf_of_envInteger {v : EnvValue} {x : Word} (h : envInteger v = .ok x) (default : Word) :
    integerOf default (some v) = x := by
  cases v with
  | integer k =>
    rw [envInteger] at h
    split_ifs at h
    exact Except.ok.inj h
  | string t => cases h
  | boolean b => cases h

theorem binaryOf_of_envBinary {v : EnvValue} {x : Bits} (h : envBinary v = .ok x) : binaryOf (some v) = x := by
  cases v with
  | string t =>
    rw [envBinary] at h
    split at h
    next => cases h
    next y hy =>
      obtain rfl := Except.ok.inj (capacity_eq_ok h)
      rw [binaryOf, hy, Option.getD_some]
  | integer k => cases h
  | boolean b => cases h

theorem nameOf_of_envChars {v : EnvValue} {t : List Byte} (h : envChars v = .ok t) (known : List (List Byte)) :
    nameOf known (some v) = if t ∈ known then BitVec.ofNat 32 (known.idxOf t) else 0xFFFFFFFF := by
  cases v with
  | string u =>
    obtain rfl := Except.ok.inj h
    rfl
  | integer k => cases h
  | boolean b => cases h

theorem text_mem_modeNames (m : EnvMode) : m.text ∈ modeNames := by
  cases m <;> decide

/-- The code of a mode name is its place among the names (R362, R371). -/
theorem envModeCode_eq (t : List Byte) :
    envModeCode t = if t ∈ modeNames then BitVec.ofNat 32 (modeNames.idxOf t) else 0xFFFFFFFF := by
  by_cases ht : t ∈ modeNames
  · rw [if_pos ht]
    simp only [modeNames, List.mem_cons, List.not_mem_nil, or_false] at ht
    obtain rfl | rfl | rfl | rfl := ht <;> rfl
  · have hnone : (([.ccm, .gcm, .ocb2, .cbc] : List EnvMode).find? fun m => m.text == t) = none := by
      rw [List.find?_eq_none]
      exact fun m _ hm => ht (beq_iff_eq.mp hm ▸ text_mem_modeNames m)
    rw [if_neg ht, envModeCode, hnone]

theorem envCipherCode_eq (t : List Byte) :
    envCipherCode t = if t ∈ [aesText] then BitVec.ofNat 32 ([aesText].idxOf t) else 0xFFFFFFFF := by
  by_cases ht : t = aesText
  · rw [if_pos (List.mem_singleton.mpr ht), ht]
    rfl
  · rw [if_neg (mt List.mem_singleton.mp ht), envCipherCode, if_neg ht]

/-- The record of the values so far, with one more value taken. -/
theorem recordOfValues_update {f : EnvName → Option EnvValue} {v : EnvValue} {n : EnvName} {r : EnvRecord}
    (h : (recordOfValues f).putValue v n = .ok r) : recordOfValues (Function.update f n (some v)) = r := by
  cases n with
  | v | iter | ks | ts =>
    obtain ⟨x, hx, rfl⟩ := except_map_eq_ok h
    simp [recordOfValues, integerOf_of_envInteger hx]
  | mode =>
    obtain ⟨x, hx, rfl⟩ := except_map_eq_ok h
    simp [recordOfValues, nameOf_of_envChars hx, envModeCode_eq]
  | cipher =>
    obtain ⟨x, hx, rfl⟩ := except_map_eq_ok h
    simp only [recordOfValues, Function.update_self, nameOf_of_envChars hx, ← envCipherCode_eq]
    simp
  | adata | iv | salt | ct =>
    obtain ⟨x, hx, rfl⟩ := except_map_eq_ok h
    simp [recordOfValues, binaryOf_of_envBinary hx]

/-! All pairs, left to right (R373) -/

theorem takePairs_cons_unknown {p : List Byte × EnvValue} (h : envNameOf p.1 = none) (seen : List EnvName)
    (r : EnvRecord) (ps : List (List Byte × EnvValue)) : takePairs seen r (p :: ps) = .error .invalidEnvelope := by
  rw [takePairs, h]

theorem takePairs_cons_repeated {seen : List EnvName} {n : EnvName} (h : n ∈ seen) (v : EnvValue) (r : EnvRecord)
    (ps : List (List Byte × EnvValue)) : takePairs seen r ((n.text, v) :: ps) = .error .invalidEnvelope := by
  rw [takePairs, envNameOf_text]
  exact if_pos (List.contains_iff_mem.mpr h)

theorem takePairs_cons_error {seen : List EnvName} {n : EnvName} (h : n ∉ seen) {v : EnvValue} {r : EnvRecord} {e : Err}
    (he : r.putValue v n = .error e) (ps : List (List Byte × EnvValue)) :
    takePairs seen r ((n.text, v) :: ps) = .error e := by
  rw [takePairs, envNameOf_text]
  dsimp only
  rw [if_neg (mt List.contains_iff_mem.mp h), he]

theorem takePairs_cons_ok {seen : List EnvName} {n : EnvName} (h : n ∉ seen) {v : EnvValue} {r r' : EnvRecord}
    (hr : r.putValue v n = .ok r') (ps : List (List Byte × EnvValue)) :
    takePairs seen r ((n.text, v) :: ps) = takePairs (n :: seen) r' ps := by
  rw [takePairs, envNameOf_text]
  dsimp only
  rw [if_neg (mt List.contains_iff_mem.mp h), hr]

/-- The error of the first of the pairs `ps` that has one, the pairs `done` standing before them. -/
def pairErrorAfter (done ps : List (List Byte × EnvValue)) : Option Err :=
  (List.range ps.length).findSome? fun j => ps[j]?.bind (pairError ((done ++ ps.take j).map fun p => p.1))

theorem pairErrorAfter_nil (done : List (List Byte × EnvValue)) : pairErrorAfter done [] = none := rfl

theorem pairErrorAfter_cons (done : List (List Byte × EnvValue)) (p : List Byte × EnvValue)
    (ps : List (List Byte × EnvValue)) :
    pairErrorAfter done (p :: ps) = (pairError (done.map fun q => q.1) p).or (pairErrorAfter (done ++ [p]) ps) := by
  rw [pairErrorAfter, List.length_cons, List.range_succ_eq_map, List.findSome?_cons, List.findSome?_map]
  have hfirst : ((p :: ps)[0]?).bind (pairError ((done ++ (p :: ps).take 0).map fun q => q.1)) =
      pairError (done.map fun q => q.1) p := by simp
  have hrest : (fun j => ((p :: ps)[j]?).bind (pairError ((done ++ (p :: ps).take j).map fun q => q.1))) ∘ Nat.succ =
      fun j => ps[j]?.bind (pairError ((done ++ [p] ++ ps.take j).map fun q => q.1)) := by
    funext j
    simp
  rw [hfirst, hrest, ← pairErrorAfter]
  cases pairError (done.map fun q => q.1) p <;> rfl

/-- Taking pairs from the record of the pairs before them. -/
theorem takePairs_eq_elim (ps : List (List Byte × EnvValue)) : ∀ (done : List (List Byte × EnvValue))
    (seen : List EnvName), (∀ n, n ∈ seen ↔ n.text ∈ done.map fun p => p.1) →
    takePairs seen (recordOf done) ps = (pairErrorAfter done ps).elim (.ok (recordOf (done ++ ps))) .error := by
  induction ps with
  | nil =>
    intro done seen _
    rw [pairErrorAfter_nil, List.append_nil]
    rfl
  | cons p ps ih =>
    intro done seen hseen
    rw [pairErrorAfter_cons]
    cases hname : envNameOf p.1 with
    | none =>
      rw [takePairs_cons_unknown hname, pairError_of_unknown hname]
      rfl
    | some n =>
      obtain ⟨name, v⟩ := p
      obtain rfl : name = n.text := text_of_envNameOf hname
      by_cases hn : n ∈ seen
      · rw [takePairs_cons_repeated hn, pairError_of_repeated ((hseen n).mp hn)]
        rfl
      · have hnew := mt (hseen n).mpr hn
        rw [pairError_eq_errorOf_putValue hnew (recordOf done)]
        cases hput : (recordOf done).putValue v n with
        | error e =>
          rw [takePairs_cons_error hn hput]
          rfl
        | ok r =>
          have hrecord : r = recordOf (done ++ [(n.text, v)]) := by
            rw [recordOf_eq] at hput
            rw [recordOf_eq, valuesOf_concat hnew, recordOfValues_update hput]
          have hseen' : ∀ m, m ∈ n :: seen ↔ m.text ∈ (done ++ [(n.text, v)]).map fun p => p.1 := by
            intro m
            rw [List.mem_cons, hseen, List.map_append, List.mem_append, List.map_singleton, List.mem_singleton, or_comm]
            exact or_congr_right ⟨congrArg EnvName.text, text_injective⟩
          rw [takePairs_cons_ok hn hput, hrecord, ih _ _ hseen', List.append_assoc]
          rfl

/-- The pairs of a whole text. -/
theorem takePairs_defaults (ps : List (List Byte × EnvValue)) :
    takePairs [] EnvRecord.defaults ps = (firstPairError ps).elim (.ok (recordOf ps)) .error :=
  takePairs_eq_elim ps [] [] fun _ => ⟨nofun, nofun⟩

end Sys2Proof.Machine
end

section
/-! The text of a record (47_envelope.md R372): decimal digits, the pairs it is made of, and that parsing it gives the
record back (R375). -/

namespace Sys2Proof.Machine

/-! Decimal text (R372) -/

theorem decimalValue_concat (t : List Byte) (c : Byte) :
    decimalValue (t ++ [c]) = 10 * decimalValue t + (c.toNat - 0x30) := by
  rw [decimalValue, List.foldl_append, List.foldl_cons, List.foldl_nil, ← decimalValue]

/-- The character of a digit: it is a digit of the grammar, and its value is the number. -/
theorem digitByte_spec : ∀ d < 10, BitVec.ofNat 8 (0x30 + d) ∈ digitChars ∧
    (BitVec.ofNat 8 (0x30 + d)).toNat - 0x30 = d ∧ [BitVec.ofNat 8 (0x30 + d)] = ascii [d.digitChar] := by decide

theorem decimalText_of_lt {fuel n : Nat} (h : n < 10) : decimalText (fuel + 1) n = [BitVec.ofNat 8 (0x30 + n)] :=
  if_pos h

theorem decimalText_of_le {fuel n : Nat} (h : 10 ≤ n) :
    decimalText (fuel + 1) n = decimalText fuel (n / 10) ++ [BitVec.ofNat 8 (0x30 + n % 10)] :=
  if_neg (Nat.not_lt.mpr h)

theorem ascii_append (a b : List Char) : ascii (a ++ b) = ascii a ++ ascii b := List.map_append

/-- With fuel enough, the text is of digits, its value is the number, and it is the number's decimal numeral. -/
theorem decimalText_spec (fuel : Nat) : ∀ n < 10 ^ (fuel + 1),
    (∀ c ∈ decimalText (fuel + 1) n, c ∈ digitChars) ∧ decimalValue (decimalText (fuel + 1) n) = n ∧
      decimalText (fuel + 1) n = ascii (Nat.toDigits 10 n) := by
  have hsmall : ∀ fuel n, n < 10 → (∀ c ∈ decimalText (fuel + 1) n, c ∈ digitChars) ∧
      decimalValue (decimalText (fuel + 1) n) = n ∧ decimalText (fuel + 1) n = ascii (Nat.toDigits 10 n) := by
    intro fuel n hn
    obtain ⟨hmem, hval, hchar⟩ := digitByte_spec n hn
    rw [decimalText_of_lt hn, Nat.toDigits_of_lt_base hn, List.forall_mem_singleton, ← List.nil_append [_],
      decimalValue_concat, hval]
    exact ⟨hmem, Nat.zero_add n, hchar⟩
  induction fuel with
  | zero => exact fun n hn => hsmall 0 n (by simpa using hn)
  | succ fuel ih =>
    intro n hn
    obtain hlt | hle := Nat.lt_or_ge n 10
    · exact hsmall _ n hlt
    · obtain ⟨hmem, hval, hchar⟩ := digitByte_spec (n % 10) (Nat.mod_lt n (by decide))
      obtain ⟨hmems, hvals, hchars⟩ := ih (n / 10) (Nat.div_lt_of_lt_mul (by rwa [← Nat.pow_succ']))
      rw [decimalText_of_le hle, Nat.toDigits_of_base_le (by decide) hle, ascii_append, ← hchar, ← hchars,
        decimalValue_concat, hval, hvals]
      exact ⟨List.forall_mem_append.mpr ⟨hmems, List.forall_mem_singleton.mpr hmem⟩, Nat.div_add_mod n 10, rfl⟩

theorem wordText_spec (v : Word) : (∀ c ∈ wordText v, c ∈ digitChars) ∧ decimalValue (wordText v) = v.toNat ∧
    wordText v = ascii (Nat.toDigits 10 v.toNat) :=
  decimalText_spec 9 v.toNat (v.isLt.trans (by decide))

/-! The pairs of a record's text (R372) -/

/-- The value of a field, as the grammar reads it. -/
def EnvRecord.value (r : EnvRecord) (mode : EnvMode) : EnvName → EnvValue
  | .v => .integer r.regs.v.toNat
  | .iter => .integer r.regs.iter.toNat
  | .ks => .integer r.regs.ks.toNat
  | .ts => .integer r.regs.ts.toNat
  | .mode => .string mode.text
  | .adata => .string (b64EncodeBytes false false r.adata)
  | .cipher => .string aesText
  | .iv => .string (b64EncodeBytes false false r.iv)
  | .salt => .string (b64EncodeBytes false false r.salt)
  | .ct => .string (b64EncodeBytes false false r.ct)

/-- The pairs of a record whose mode has this name, in the order of R372. -/
def EnvRecord.pairs (r : EnvRecord) (mode : EnvMode) : List (List Byte × EnvValue) :=
  envNames.map fun n => (n.text, r.value mode n)

theorem isValue_wordText (v : Word) : IsValue (wordText v) (.integer v.toNat) := by
  obtain ⟨hmem, hval, hchars⟩ := wordText_spec v
  have hne : wordText v ≠ [] := by
    rw [hchars, ascii, Ne, List.map_eq_nil_iff]
    exact Nat.toDigits_ne_nil
  have hvalue := IsValue.integer _ hne hmem
  rwa [← decimalValue_eq_ofDigits, hval] at hvalue

theorem isValue_inQuotes {t : List Byte} (h : ∀ c ∈ t, c ∈ scharChars) : IsValue (inQuotes t) (.string t) :=
  .string t h

theorem b64Char_mem_scharChars : ∀ v < 2 ^ 6, b64Char false v ∈ scharChars := by decide

theorem mem_scharChars_of_mem_b64EncodeBytes {x : Bits} : ∀ c ∈ b64EncodeBytes false false x, c ∈ scharChars := by
  intro c hc
  rw [b64EncodeBytes_eq, List.mem_append, List.mem_map] at hc
  obtain ⟨v, hv, rfl⟩ | hpad := hc
  · exact b64Char_mem_scharChars v (lt_of_mem_digitsOf (by decide) (dvd_b64Padded_length x) v hv)
  · obtain rfl := List.eq_of_mem_replicate hpad
    decide

theorem isValue_valueText (r : EnvRecord) (mode : EnvMode) (n : EnvName) :
    IsValue (r.valueText mode n) (r.value mode n) := by
  cases n with
  | v | iter | ks | ts => exact isValue_wordText _
  | mode =>
    refine isValue_inQuotes ?_
    cases mode <;> decide
  | cipher => exact isValue_inQuotes (by decide)
  | adata | iv | salt | ct => exact isValue_inQuotes mem_scharChars_of_mem_b64EncodeBytes

theorem isName_inQuotes_text (n : EnvName) : IsName (inQuotes n.text) n.text := by
  refine ⟨?_, ?_, .inr (.inl rfl)⟩ <;> cases n <;> decide

theorem isPair_pairText (r : EnvRecord) (mode : EnvMode) (n : EnvName) :
    IsPair (r.pairText mode n) (n.text, r.value mode n) :=
  ⟨_, _, (List.append_assoc _ [0x3A] _).symm, isName_inQuotes_text n, isValue_valueText r mode n⟩

/-- The text of a record is a text of the grammar, with the pairs of the record. -/
theorem isEnvelope_text (r : EnvRecord) (mode : EnvMode) : IsEnvelope (r.text mode) (r.pairs mode) := by
  refine ⟨envNames.map (r.pairText mode), nofun, ?_, rfl⟩
  rw [EnvRecord.pairs, List.forall₂_map_left_iff, List.forall₂_map_right_iff, List.forall₂_same]
  exact fun n _ => isPair_pairText r mode n

/-! The characters of a text of the grammar (R370) -/

theorem flatten_intersperse_subset {α : Type} {s : List α} (sep : List α) (hsep : sep ⊆ s) {l : List (List α)}
    (h : ∀ t ∈ l, t ⊆ s) : (l.intersperse sep).flatten ⊆ s := by
  induction l with
  | nil => exact nofun
  | cons t l ih =>
    obtain ⟨ht, hl⟩ := List.forall_mem_cons.mp h
    cases l with
    | nil => simpa using ht
    | cons u l =>
      rw [List.intersperse_cons_cons, List.flatten_cons, List.flatten_cons]
      exact List.append_subset.mpr ⟨ht, List.append_subset.mpr ⟨hsep, ih hl⟩⟩

/-- The characters of a text of the grammar without white space. -/
def envelopeChars : List Byte := tokenChars ++ [0x3A, 0x2C, 0x7B, 0x7D]

theorem tokenChars_subset_envelopeChars : tokenChars ⊆ envelopeChars := List.subset_append_left _ _

theorem IsPair.subset_envelopeChars {t : List Byte} {p : List Byte × EnvValue} (h : IsPair t p) : t ⊆ envelopeChars := by
  obtain ⟨a, b, rfl, ha, hb⟩ := h
  have hcolon : ascii [':'] ⊆ envelopeChars := by decide
  exact List.append_subset.mpr ⟨List.append_subset.mpr
    ⟨List.Subset.trans ha.subset_tokenChars tokenChars_subset_envelopeChars, hcolon⟩,
    List.Subset.trans hb.subset_tokenChars tokenChars_subset_envelopeChars⟩

theorem IsEnvelope.subset_envelopeChars {t : List Byte} {ps : List (List Byte × EnvValue)} (h : IsEnvelope t ps) :
    t ⊆ envelopeChars := by
  obtain ⟨texts, -, hpairs, rfl⟩ := h
  have hleft : ([0x7B] : List Byte) ⊆ envelopeChars := by decide
  have hright : ([0x7D] : List Byte) ⊆ envelopeChars := by decide
  have htexts : ∀ t ∈ texts, t ⊆ envelopeChars :=
    forall_mem_of_forall₂ (P := fun t => t ⊆ envelopeChars) (fun _ _ => IsPair.subset_envelopeChars) hpairs
  exact List.append_subset.mpr
    ⟨List.append_subset.mpr ⟨hleft, flatten_intersperse_subset _ (by decide) htexts⟩, hright⟩

/-- No character of the grammar is outside ASCII or white space. -/
theorem envelopeChars_spec : ∀ c ∈ envelopeChars, c.toNat < 0x80 ∧ isSpace c = false := by decide

/-! Parsing the text (R373) -/

theorem envParse_of_not_wholeBytes {t : Bits} (h : t.length % 8 ≠ 0) : envParse t = .error .invalidParameter :=
  if_pos ((not_wholeBytes_iff t).mpr h)

theorem envParse_of_wholeBytes {t : Bits} (h : t.length % 8 = 0) :
    envParse t =
      if (bytesOf t).any fun c => decide (0x80 ≤ c.toNat) then .error .invalidEnvelope
      else
        (parsePairs ((bytesOf t).filter fun c => !isSpace c)).elim (.error .invalidEnvelope)
          (takePairs [] EnvRecord.defaults) := by
  rw [envParse, if_neg (mt (not_wholeBytes_iff t).mp (not_not.mpr h))]
  dsimp only
  cases parsePairs ((bytesOf t).filter fun c => !isSpace c) with
  | none => exact rfl
  | some ps => exact rfl

theorem envParse_of_nonAscii {t : Bits} (h : t.length % 8 = 0) (hc : ∃ c ∈ bytesOf t, 0x80 ≤ c.toNat) :
    envParse t = .error .invalidEnvelope := by
  rw [envParse_of_wholeBytes h]
  refine if_pos (List.any_eq_true.mpr ?_)
  simpa using hc

theorem envParse_of_not_isEnvelope {t : Bits} (h : t.length % 8 = 0)
    (ht : ∀ ps, ¬ IsEnvelope ((bytesOf t).filter fun c => !isSpace c) ps) : envParse t = .error .invalidEnvelope := by
  have hnone : parsePairs ((bytesOf t).filter fun c => !isSpace c) = none :=
    Option.eq_none_iff_forall_ne_some.mpr fun ps hps => ht ps (parsePairs_eq_some_iff.mp hps)
  rw [envParse_of_wholeBytes h, hnone]
  exact ite_self _

theorem envParse_of_isEnvelope {t : Bits} {ps : List (List Byte × EnvValue)} (h : t.length % 8 = 0)
    (hc : ∀ c ∈ bytesOf t, c.toNat < 0x80) (ht : IsEnvelope ((bytesOf t).filter fun c => !isSpace c) ps) :
    envParse t = (firstPairError ps).elim (.ok (recordOf ps)) .error := by
  have hascii : ¬ ((bytesOf t).any fun c => decide (0x80 ≤ c.toNat)) = true := by
    simpa using hc
  rw [envParse_of_wholeBytes h, if_neg hascii, parsePairs_eq_some_iff.mpr ht]
  exact takePairs_defaults ps

/-! The pairs of a record describe the record (R375) -/

/-- The first name of the text is found first, and so on: every field has its own value. -/
theorem valuesOf_pairs (r : EnvRecord) (mode : EnvMode) (n : EnvName) :
    valuesOf (r.pairs mode) n = some (r.value mode n) := by
  cases n <;> rfl

/-- A binary field whose text fits and that is of whole bytes is read back. -/
theorem envBinary_b64EncodeBytes {x : Bits} (hx : x.length % 8 = 0) (hfits : fitsBuf x.length = true) :
    envBinary (.string (b64EncodeBytes false false x)) = .ok x := by
  rw [envBinary, b64DecodeBytes_b64EncodeBytes false false hx]
  exact if_pos hfits

theorem envInteger_toNat (x : Word) : envInteger (.integer x.toNat) = .ok x := by
  rw [envInteger, if_pos x.isLt, BitVec.ofNat_toNat, BitVec.setWidth_eq]

theorem nameOf_modeText {v : Word} {mode : EnvMode} (h : envMode v = some mode) :
    nameOf modeNames (some (.string mode.text)) = v := by
  unfold envMode at h
  split_ifs at h with h0 h1 h2 h3
  all_goals
    obtain rfl := Option.some.inj h
    simp only [*]
    rfl

/-- The pairs that a record is written as describe it. -/
theorem recordOf_pairs {r : EnvRecord} {mode : EnvMode} (hcipher : r.regs.cipher = 0)
    (hmode : envMode r.regs.mode = some mode) (hadata : r.adata.length % 8 = 0) (hiv : r.iv.length % 8 = 0)
    (hsalt : r.salt.length % 8 = 0) (hct : r.ct.length % 8 = 0) : recordOf (r.pairs mode) = r := by
  have hbinary : ∀ {x : Bits}, x.length % 8 = 0 → binaryOf (some (.string (b64EncodeBytes false false x))) = x := by
    intro x hx
    rw [binaryOf, b64DecodeBytes_b64EncodeBytes false false hx, Option.getD_some]
  have hinteger : ∀ d x : Word, integerOf d (some (.integer x.toNat)) = x :=
    fun d x => integerOf_of_envInteger (envInteger_toNat x) d
  have haes : nameOf [aesText] (some (.string aesText)) = r.regs.cipher := hcipher.symm ▸ rfl
  simp only [recordOf_eq, recordOfValues, valuesOf_pairs, EnvRecord.value, hbinary hadata, hbinary hiv, hbinary hsalt,
    hbinary hct, hinteger, nameOf_modeText hmode, haes]

/-- Pairs of distinct fields, each with a value its field takes, have no error. -/
theorem pairErrorAfter_eq_none {names : List EnvName} {f : EnvName → EnvValue} (hnodup : names.Nodup)
    (hok : ∀ n ∈ names, errorOf (EnvRecord.defaults.putValue (f n) n) = none) :
    ∀ done : List (List Byte × EnvValue), (∀ n ∈ names, n.text ∉ done.map fun p => p.1) →
    pairErrorAfter done (names.map fun n => (n.text, f n)) = none := by
  induction names with
  | nil => exact fun done _ => pairErrorAfter_nil done
  | cons n names ih =>
    intro done hnew
    obtain ⟨hn, hrest⟩ := List.nodup_cons.mp hnodup
    obtain ⟨hfirst, hoks⟩ := List.forall_mem_cons.mp hok
    obtain ⟨hfresh, hnews⟩ := List.forall_mem_cons.mp hnew
    rw [List.map_cons, pairErrorAfter_cons, pairError_eq_errorOf_putValue hfresh EnvRecord.defaults, hfirst,
      Option.none_or]
    refine ih hrest hoks _ fun m hm => ?_
    rw [List.map_append, List.mem_append, List.map_singleton, List.mem_singleton]
    exact not_or.mpr ⟨hnews m hm, fun ht => hn (text_injective ht ▸ hm)⟩

/-- Each field of a record whose binary fields fit takes its own value back. -/
theorem errorOf_putValue_value {r : EnvRecord} (hfits : r.Fits) (hadata : r.adata.length % 8 = 0)
    (hiv : r.iv.length % 8 = 0) (hsalt : r.salt.length % 8 = 0) (hct : r.ct.length % 8 = 0) (mode : EnvMode)
    (q : EnvRecord) (n : EnvName) : errorOf (q.putValue (r.value mode n) n) = none := by
  have hinteger : ∀ (f : Word → EnvRecord) (x : Word), errorOf ((envInteger (.integer x.toNat)).map f) = none := by
    intro f x
    rw [errorOf_map, envInteger_toNat, errorOf]
  have hbinary : ∀ (f : Bits → EnvRecord) {x : Bits}, x.length % 8 = 0 → fitsBuf x.length = true →
      errorOf ((envBinary (.string (b64EncodeBytes false false x))).map f) = none := by
    intro f x hx hxfits
    rw [errorOf_map, envBinary_b64EncodeBytes hx hxfits, errorOf]
  cases n with
  | v | iter | ks | ts => exact hinteger _ _
  | mode | cipher => rfl
  | adata => exact hbinary _ hadata hfits.adata
  | iv => exact hbinary _ hiv hfits.iv
  | salt => exact hbinary _ hsalt hfits.salt
  | ct => exact hbinary _ hct hfits.ct

theorem firstPairError_pairs {r : EnvRecord} (hfits : r.Fits) (hadata : r.adata.length % 8 = 0)
    (hiv : r.iv.length % 8 = 0) (hsalt : r.salt.length % 8 = 0) (hct : r.ct.length % 8 = 0) (mode : EnvMode) :
    firstPairError (r.pairs mode) = none :=
  pairErrorAfter_eq_none (by decide)
    (fun n _ => errorOf_putValue_value hfits hadata hiv hsalt hct mode EnvRecord.defaults n) [] fun _ _ => nofun

/-! A text that fits has fields that fit -/

theorem length_le_flatten_intersperse {α : Type} {t : List α} {l : List (List α)} (h : t ∈ l) (sep : List α) :
    t.length ≤ (l.intersperse sep).flatten.length := by
  obtain ⟨i, hi, rfl⟩ := List.mem_iff_getElem.mp h
  have hmem : l[i] ∈ l.intersperse sep := by
    refine List.mem_iff_getElem?.mpr ⟨2 * i, ?_⟩
    rw [List.getElem?_intersperse_two_mul, List.getElem?_eq_getElem hi]
  exact (List.sublist_flatten_of_mem hmem).length_le

theorem valueText_length_le (r : EnvRecord) (mode : EnvMode) (n : EnvName) :
    (r.valueText mode n).length ≤ (r.text mode).length := by
  have hpair : (r.valueText mode n).length ≤ (r.pairText mode n).length := by
    rw [EnvRecord.pairText, List.length_append, List.length_cons]
    omega
  have htext : (r.pairText mode n).length ≤ (r.text mode).length := by
    have hmem : r.pairText mode n ∈ envNames.map (r.pairText mode) :=
      List.mem_map_of_mem (by cases n <;> decide)
    have hle := length_le_flatten_intersperse hmem [0x2C]
    rw [EnvRecord.text, List.length_append, List.length_cons]
    omega
  exact hpair.trans htext

theorem length_le_binaryText (x : Bits) : x.length ≤ 8 * (binaryText x).length := by
  have hlen := b64EncodeBytes_length false false x
  have hbits : x.length ≤ b64TextBits false x.length := by
    rw [b64TextBits, b64Chars, ceilDiv]
    omega
  rw [binaryText, inQuotes, List.length_cons, List.length_append]
  omega

theorem EnvRecord.fits_of_text {r : EnvRecord} {mode : EnvMode} (h : fitsBuf (8 * (r.text mode).length) = true) :
    r.Fits := by
  have hfield : ∀ n x, r.valueText mode n = binaryText x → fitsBuf x.length = true := by
    intro n x hx
    have hle := hx ▸ valueText_length_le r mode n
    exact fitsBuf_mono ((length_le_binaryText x).trans (Nat.mul_le_mul_left 8 hle)) h
  exact ⟨hfield .adata _ rfl, hfield .iv _ rfl, hfield .salt _ rfl, hfield .ct _ rfl⟩

/-! Serialising (R372) -/

/-- The test of the binary fields fails when one of them is not of whole bytes. -/
theorem not_wholeBytes_fields_iff (r : EnvRecord) :
    (!(wholeBytes r.adata && wholeBytes r.iv && wholeBytes r.salt && wholeBytes r.ct)) = true ↔
      r.adata.length % 8 ≠ 0 ∨ r.iv.length % 8 ≠ 0 ∨ r.salt.length % 8 ≠ 0 ∨ r.ct.length % 8 ≠ 0 := by
  simp only [Bool.not_and, Bool.or_eq_true, not_wholeBytes_iff, or_assoc]

/-- The records that serialise, and their text. -/
theorem envSerialize_eq_ok {r : EnvRecord} {t : Bits} (h : envSerialize r = .ok t) :
    ∃ mode, r.regs.cipher = 0 ∧ envMode r.regs.mode = some mode ∧ r.adata.length % 8 = 0 ∧ r.iv.length % 8 = 0 ∧
      r.salt.length % 8 = 0 ∧ r.ct.length % 8 = 0 ∧ fitsBuf (8 * (r.text mode).length) = true ∧
      t = ofBytes (r.text mode) := by
  unfold envSerialize at h
  split at h
  next => cases h
  next hcipher =>
    split at h
    next => cases h
    next mode hmode =>
      split at h
      next => cases h
      next hbytes =>
        rw [ofBytes_length, capacity] at h
        split at h
        next hfits =>
          obtain rfl := Except.ok.inj h
          simp only [not_wholeBytes_fields_iff, not_or, not_not] at hbytes
          obtain ⟨hadata, hiv, hsalt, hct⟩ := hbytes
          exact ⟨mode, not_not.mp hcipher, hmode, hadata, hiv, hsalt, hct, hfits, rfl⟩
        next => cases h

/-- Settles O57: the text is in the grammar with the pairs of the record, and they have no error and describe it. -/
theorem envelopeTextRoundTrip : Obligations.EnvelopeTextRoundTrip := by
  intro r t h
  obtain ⟨mode, hcipher, hmode, hadata, hiv, hsalt, hct, hfits, rfl⟩ := envSerialize_eq_ok h
  have htext := isEnvelope_text r mode
  have hchars : ∀ c ∈ r.text mode, c.toNat < 0x80 ∧ isSpace c = false :=
    fun c hc => envelopeChars_spec c (htext.subset_envelopeChars hc)
  have hfilter : (r.text mode).filter (fun c => !isSpace c) = r.text mode :=
    List.filter_eq_self.mpr fun c hc => by rw [(hchars c hc).2, Bool.not_false]
  have hparse : envParse (ofBytes (r.text mode)) =
      (firstPairError (r.pairs mode)).elim (.ok (recordOf (r.pairs mode))) .error := by
    refine envParse_of_isEnvelope ?_ ?_ ?_
    · rw [ofBytes_length, Nat.mul_mod_right]
    · rw [bytesOf_ofBytes]
      exact fun c hc => (hchars c hc).1
    · rwa [bytesOf_ofBytes, hfilter]
  rw [hparse, firstPairError_pairs (EnvRecord.fits_of_text hfits) hadata hiv hsalt hct mode,
    recordOf_pairs hcipher hmode hadata hiv hsalt hct]
  rfl

end Sys2Proof.Machine
end

section
/-! The envelope commands as the rules write them (47_envelope.md R363 to R373). -/

namespace Sys2Proof.Machine

/-- The white space the parser leaves out (R370), by its characters. -/
theorem not_isSpace_eq : ∀ c : Byte,
    (!isSpace c) = !([0x09, 0x0A, 0x0B, 0x0C, 0x0D, 0x20] : List Byte).contains c := by decide

theorem filter_not_isSpace (t : List Byte) : (t.filter fun c => !isSpace c) =
    t.filter fun c => !([0x09, 0x0A, 0x0B, 0x0C, 0x0D, 0x20] : List Byte).contains c :=
  congrArg (fun p => t.filter p) (funext not_isSpace_eq)

theorem execEnvParse_of_error {b : BufIx} {s : State} {e : Err} (h : envParse (s.bufAt b) = .error e) :
    exec (.envParse b) s = .next (s.fail 0x72 e) := by
  show execEnvParse b s = _
  rw [execEnvParse, h]
  rfl

theorem execEnvParse_of_ok {b : BufIx} {s : State} {r : EnvRecord} (h : envParse (s.bufAt b) = .ok r) :
    exec (.envParse b) s = .next ((s.setEnvRecord r).succeed 0x72) := by
  show execEnvParse b s = _
  rw [execEnvParse, h]
  rfl

/-- The text of a record, piece by piece. -/
theorem printedText_eq (r : EnvRecord) (mode : EnvMode) : printedText r mode.text = r.text mode := by
  have hword : ∀ v : Word, wordText v = ascii (Nat.toDigits 10 v.toNat) := fun v => (wordText_spec v).2.2
  unfold printedText
  simp only [EnvRecord.text, envNames, List.map_cons, List.map_nil, EnvRecord.pairText, EnvRecord.valueText, hword,
    binaryText, inQuotes, EnvName.text, List.intersperse_cons_cons, List.intersperse_singleton, List.flatten_cons,
    List.flatten_nil]
  simp [ascii, aesText]

theorem modeNames_getD {v : Word} {mode : EnvMode} (h : envMode v = some mode) :
    modeNames.getD v.toNat [] = mode.text := by
  unfold envMode at h
  split_ifs at h with h0 h1 h2 h3
  all_goals
    obtain rfl := Option.some.inj h
    simp only [*]
    rfl

/-- Serialising, with its errors in order (R372). -/
theorem envSerialize_eq_ite (r : EnvRecord) : envSerialize r =
    if r.regs.cipher ≠ 0 then .error .unsupportedCipher
    else if 3 < r.regs.mode.toNat then .error .unsupportedMode
    else if r.adata.length % 8 ≠ 0 ∨ r.iv.length % 8 ≠ 0 ∨ r.salt.length % 8 ≠ 0 ∨ r.ct.length % 8 ≠ 0 then
      .error .invalidParameter
    else if fitsBuf (8 * (printedText r (modeNames.getD r.regs.mode.toNat [])).length) then
      .ok (ofBytes (printedText r (modeNames.getD r.regs.mode.toNat [])))
    else .error .bufferOverflow := by
  rw [envSerialize]
  refine ite_congr rfl (fun _ => rfl) fun _ => ?_
  cases hmode : envMode r.regs.mode with
  | none => exact (if_pos ((envMode_eq_none_iff _).mp hmode)).symm
  | some mode =>
    have hknown : ¬ 3 < r.regs.mode.toNat := by
      rw [← envMode_eq_none_iff, hmode]
      exact nofun
    rw [if_neg hknown, modeNames_getD hmode, printedText_eq]
    simp only [not_wholeBytes_fields_iff, ofBytes_length, capacity]

/-- Settles O36. ENV.DEC and ENV.ENC run the checks as a list; ENV.PARSE reads what the grammar generates and takes its
pairs one by one; ENV.SER prints the record. -/
theorem envelopeCommands : Obligations.EnvelopeCommands := by
  refine fun s => ⟨fun a b raw => ?_, fun b c raw => ?_, fun b => ⟨?_, ?_, ?_, ?_⟩, fun a => ?_⟩
  · rw [exec_envDec]
    split
    next e hf => rw [envDecrypt_of_failing hf, resultToBuf_error]
    next hf =>
      rw [envDecrypt_of_passing hf]
      exact resultToBuf_eq_match _ _ _ _
  · rw [exec_envEnc]
    split
    next e hf =>
      rw [envEncrypt_of_failing hf]
      rfl
    next hf =>
      rw [envEncrypt_of_passing hf]
      exact resultToBuf_eq_match _ _ _ _
  · exact fun hbits => execEnvParse_of_error (envParse_of_not_wholeBytes hbits)
  · exact fun hbytes hchar => execEnvParse_of_error (envParse_of_nonAscii hbytes hchar)
  · intro hbytes htext
    rw [← filter_not_isSpace] at htext
    exact execEnvParse_of_error (envParse_of_not_isEnvelope hbytes htext)
  · intro ps hbytes hchars htext
    rw [← filter_not_isSpace] at htext
    have hparse := envParse_of_isEnvelope hbytes hchars htext
    cases hfirst : firstPairError ps with
    | some e => exact execEnvParse_of_error (hparse.trans (by rw [hfirst, Option.elim_some]))
    | none => exact execEnvParse_of_ok (hparse.trans (by rw [hfirst, Option.elim_none]))
  · show resultToBuf 0x73 a (envSerialize s.envRecord) s = _
    rw [envSerialize_eq_ite]
    dsimp only
    split_ifs <;> rfl

end Sys2Proof.Machine
end
